-- ==== Sys2Proof/Word.lean ====
section
/-! DEFINITION. The word types of the block (spec/00_scope.md R7, R10): 32-bit interface words, bytes that are field
elements, frames, byte buffers and row-major matrices. -/

namespace Sys2Proof

/-- A word of the command and response interface, 32 bits (R7). -/
abbrev Word := BitVec 32

/-- A byte, which is also a field element of GF(2^8) (R7, R110). -/
abbrev Byte := BitVec 8

/-- A command or response frame: a finite sequence of words, word 0 first (R70). -/
abbrev Frame := List Word

/-- A byte buffer (R10). -/
abbrev Buffer := List Byte

/-- A matrix of bytes, a list of its rows; also "a list of n buffers of length L" (R10). -/
abbrev Mat := List Buffer

end Sys2Proof
end

