-- ==== Sys2Proof/Machine/Operands.lean ====
section
/-! DEFINITION. Operand and payload forms (spec/30_encoding.md R72 to R76, spec/20_memory.md R53, R54): byte operands,
little-endian packing of payload bytes in words, row-major matrices and concatenated buffers. -/

namespace Sys2Proof.Machine

/-- A word argument of a frame, as is (R72); a word past the end reads as 0 (never used: the length is checked first). -/
def wordArg (ws : Frame) (i : Nat) : Word := ws.getD i 0

/-- A count, index or length argument: the word as a natural number (R72, R8). -/
def natArg (ws : Frame) (i : Nat) : Nat := (wordArg ws i).toNat

/-- A byte operand: bits [7:0] of its word (R72). -/
def byteArg (ws : Frame) (i : Nat) : Byte := (wordArg ws i).extractLsb' 0 8

/-- Bits [31:8] of a byte operand's word, which must be 0 (R72). -/
def byteArgReserved (ws : Frame) (i : Nat) : BitVec 24 := (wordArg ws i).extractLsb' 8 24

/-- `zext32` of a byte (R8). -/
def zext32 (b : Byte) : Word := b.setWidth 32

/-- Byte k (0 to 3) of a word, little-endian: bits [8k+7 : 8k] (R75). -/
def wordByte (w : Word) (k : Nat) : Byte := w.extractLsb' (8 * k) 8

/-- The four bytes of a word, byte 0 first (R75). -/
def wordBytes (w : Word) : List Byte := [wordByte w 0, wordByte w 1, wordByte w 2, wordByte w 3]

/-- The word of four bytes, byte 0 lowest (R75). -/
def wordOf (b0 b1 b2 b3 : Byte) : Word :=
  zext32 b0 ||| (zext32 b1 <<< 8) ||| (zext32 b2 <<< 16) ||| (zext32 b3 <<< 24)

/-- Payload bytes as words; the last word is padded with 0x00 (R75). -/
def pack : List Byte → List Word
  | [] => []
  | [b0] => [wordOf b0 0 0 0]
  | [b0, b1] => [wordOf b0 b1 0 0]
  | [b0, b1, b2] => [wordOf b0 b1 b2 0]
  | b0 :: b1 :: b2 :: b3 :: rest => wordOf b0 b1 b2 b3 :: pack rest

/-- The bytes of the payload words, padding included (R75). -/
def unpack (ws : List Word) : List Byte := ws.flatMap wordBytes

/-- `ceil(P/4)`: how many words P payload bytes take (R73). -/
def wordsFor (p : Nat) : Nat := (p + 3) / 4

/-- Concatenated buffers of the given lengths, taken apart (R74). -/
def splitBuffers : List Nat → List Byte → List Buffer
  | [], _ => []
  | len :: lens, bytes => bytes.take len :: splitBuffers lens (bytes.drop len)

/-- A row-major payload as a rows x cols matrix: entry (i, j) is byte i*cols + j (R53). -/
def reshape (rows cols : Nat) (bytes : List Byte) : Mat :=
  (List.range rows).map fun i => (bytes.drop (i * cols)).take cols

/-- A Boolean as a byte, 0x01 or 0x00 (R83). -/
def boolByte (b : Bool) : Byte := if b then 0x01 else 0x00

/-- A mask byte as a Boolean (R83). -/
def byteBool (b : Byte) : Bool := b == 0x01

/-- A count as a result word (R82). -/
def countWord (n : Nat) : Word := BitVec.ofNat 32 n

end Sys2Proof.Machine
end

