-- ==== Sys2Proof/Syntax.lean ====
section
/-! DEFINITION. The 19 commands (spec/30_encoding.md R78), their opcodes and their formats (R77). -/

namespace Sys2Proof

/-- The command formats of R77. -/
inductive Format where
  | fZ | fS1 | fS2 | fSE | fD2 | fMI | fMM | fCF | fEN | fIX | fBF | fMK
deriving DecidableEq, Repr

/-- The assigned opcodes of R78, one per command. -/
inductive Opcode where
  | gfAdd | gfMul | gfDiv | gfExp | gfLog
  | matBuild | matMul | matInv | vdmBuild
  | raidConfig | encode | dropShard | bitFlip | detect | verify | reconCorruption | reconData | reconDisk | readShard
deriving DecidableEq, Repr

/-- One decoded command with its operands (R77, R78). A u32 argument is a `Word`; a byte operand a `Byte`; the length
words `nb`, `len_i` and `c` are the lengths of the lists they count (log 10). -/
inductive Instr where
  /-- GF_ADD a, b -/
  | gfAdd (a b : Byte)
  /-- GF_MUL a, b -/
  | gfMul (a b : Byte)
  /-- GF_DIV a, b: a is the dividend -/
  | gfDiv (a b : Byte)
  /-- GF_EXP base, power -/
  | gfExp (base : Byte) (power : Word)
  /-- GF_LOG a -/
  | gfLog (a : Byte)
  /-- MAT_BUILD rows, cols -/
  | matBuild (rows cols : Word)
  /-- MAT_MUL: `a` is A's m*n bytes, row-major; `bufs` are B_0 .. B_{nb-1} -/
  | matMul (m n : Word) (a : List Byte) (bufs : List Buffer)
  /-- MAT_INV: `a` is A's rows*cols bytes, row-major -/
  | matInv (rows cols : Word) (a : List Byte)
  /-- VDM_BUILD rows, cols -/
  | vdmBuild (rows cols : Word)
  /-- RAID_CONFIG k, m, cap -/
  | raidConfig (k m cap : Word)
  /-- ENCODE B_0, ..., B_{nb-1} -/
  | encode (bufs : List Buffer)
  /-- DROP_SHARD index -/
  | dropShard (index : Word)
  /-- BIT_FLIP index, bitpos -/
  | bitFlip (index bitpos : Word)
  /-- DETECT -/
  | detect
  /-- VERIFY -/
  | verify
  /-- RECON_CORRUPTION -/
  | reconCorruption
  /-- RECON_DATA with the validity mask, one Boolean a mask byte (R83) -/
  | reconData (mask : List Bool)
  /-- RECON_DISK -/
  | reconDisk
  /-- READ_SHARD index -/
  | readShard (index : Word)
deriving DecidableEq, Repr

end Sys2Proof
end

