-- ==== Sys2Proof/WellFormed.lean ====
section
/-! DEFINITION. Which instructions a frame can spell (spec/30_encoding.md R73, R77, R80): a matrix has the bytes its
dimensions say, and every count and length fits its 32-bit word. -/

namespace Sys2Proof

/-- A count that fits one u32 word (R72). -/
def fitsWord (n : Nat) : Bool := decide (n < 2 ^ 32)

/-- A list of buffers whose count and lengths fit their words (formats F-MM and F-EN, R77). -/
def buffersFit (bufs : List Buffer) : Bool := fitsWord bufs.length && bufs.all fun b => fitsWord b.length

/-- The check every encoded command passes; `decode` gives only such commands. -/
def Instr.wellFormed : Instr → Bool
  | .gfAdd _ _ => true
  | .gfMul _ _ => true
  | .gfDiv _ _ => true
  | .gfExp _ _ => true
  | .gfLog _ => true
  | .matBuild _ _ => true
  | .matMul m n a bufs => a.length == m.toNat * n.toNat && buffersFit bufs
  | .matInv rows cols a => a.length == rows.toNat * cols.toNat
  | .vdmBuild _ _ => true
  | .raidConfig _ _ _ => true
  | .encode bufs => buffersFit bufs
  | .dropShard _ => true
  | .bitFlip _ _ => true
  | .detect => true
  | .verify => true
  | .reconCorruption => true
  | .reconData mask => fitsWord mask.length
  | .reconDisk => true
  | .readShard _ => true

end Sys2Proof
end

