-- ==== Sys2Proof/Decode.lean ====
section
/-! DEFINITION. Decoding of command frames (spec/30_encoding.md R70 to R80), total on any word sequence and rejecting by
name, and the encoder, written from the same tables. -/

namespace Sys2Proof

open Sys2Proof.Machine

/-- OPC of each command (R78). -/
def Opcode.code : Opcode → Byte
  | .gfAdd => 0x01
  | .gfMul => 0x02
  | .gfDiv => 0x03
  | .gfExp => 0x04
  | .gfLog => 0x05
  | .matBuild => 0x10
  | .matMul => 0x11
  | .matInv => 0x12
  | .vdmBuild => 0x20
  | .raidConfig => 0x30
  | .encode => 0x31
  | .dropShard => 0x32
  | .bitFlip => 0x33
  | .detect => 0x34
  | .verify => 0x35
  | .reconCorruption => 0x36
  | .reconData => 0x37
  | .reconDisk => 0x38
  | .readShard => 0x39

/-- The rows of the opcode map (R78). -/
def opcodeRows : List Opcode :=
  [.gfAdd, .gfMul, .gfDiv, .gfExp, .gfLog, .matBuild, .matMul, .matInv, .vdmBuild, .raidConfig, .encode, .dropShard,
   .bitFlip, .detect, .verify, .reconCorruption, .reconData, .reconDisk, .readShard]

/-- The command of an OPC value; every value R78 does not assign is reserved (R79). -/
def Opcode.ofCode? (c : Byte) : Option Opcode := opcodeRows.find? fun op => op.code == c

/-- The format of each command (R78). -/
def Opcode.format : Opcode → Format
  | .gfAdd | .gfMul | .gfDiv => .fS2
  | .gfExp => .fSE
  | .gfLog => .fS1
  | .matBuild | .vdmBuild => .fD2
  | .matMul => .fMM
  | .matInv => .fMI
  | .raidConfig => .fCF
  | .encode => .fEN
  | .dropShard | .readShard => .fIX
  | .bitFlip => .fBF
  | .detect | .verify | .reconCorruption | .reconDisk => .fZ
  | .reconData => .fMK

/-- The fixed argument count A of each format (R80). -/
def Format.argCount : Format → Nat
  | .fZ => 0
  | .fS1 => 1
  | .fS2 => 2
  | .fSE => 2
  | .fD2 => 2
  | .fMI => 2
  | .fMM => 3
  | .fCF => 3
  | .fEN => 1
  | .fIX => 1
  | .fBF => 2
  | .fMK => 1

/-- The length words of the buffers (F-MM: W[4..3+nb], F-EN: W[2..1+nb]; R77). -/
def Format.bufferLengths (f : Format) (ws : Frame) : List Nat :=
  match f with
  | .fMM => ((ws.drop 4).take (natArg ws 3)).map BitVec.toNat
  | .fEN => ((ws.drop 2).take (natArg ws 1)).map BitVec.toNat
  | _ => []

/-- The word at which the payload starts (R80). -/
def Format.payloadStart (f : Format) (ws : Frame) : Nat :=
  match f with
  | .fMM => 4 + natArg ws 3
  | .fEN => 2 + natArg ws 1
  | _ => 1 + f.argCount

/-- P, the payload's length in bytes, an exact natural number (R77, R80). -/
def Format.payloadLength (f : Format) (ws : Frame) : Nat :=
  match f with
  | .fMM => natArg ws 1 * natArg ws 2 + (f.bufferLengths ws).sum
  | .fEN => (f.bufferLengths ws).sum
  | .fMI => natArg ws 1 * natArg ws 2
  | .fMK => natArg ws 1
  | _ => 0

/-- The length N a legal frame must have (R76). -/
def Format.frameLength (f : Format) (ws : Frame) : Nat := f.payloadStart ws + wordsFor (f.payloadLength ws)

/-- The argument words that are byte operands (R77). -/
def Format.byteOperands : Format → List Nat
  | .fS1 => [1]
  | .fS2 => [1, 2]
  | .fSE => [1]
  | _ => []

/-- Why a frame spells no command (R79, R80). Every one is answered with `IllegalCommand`; which is found first is not
observable (log 12). -/
inductive DecodeError where
  /-- N = 0 -/
  | emptyFrame
  /-- OPC is not assigned in R78 -/
  | unassignedOpcode
  /-- RSV is not 0 -/
  | reservedHeaderBits
  /-- N < 1 + A -/
  | missingArguments
  /-- a buffer's length word is missing -/
  | missingLengthWords
  /-- N is not start + ceil(P/4) -/
  | wrongLength
  /-- a padding byte of the last payload word is not 0x00 -/
  | nonzeroPadding
  /-- bits [31:8] of a byte operand are not 0 -/
  | nonzeroOperandBits
  /-- a mask byte is above 0x01 -/
  | maskByteAboveOne
deriving DecidableEq, Repr

/-- Bits [31:24] of the header (R71). -/
def headerOpc (h : Word) : Byte := h.extractLsb' 24 8

/-- Bits [23:0] of the header, reserved (R71). -/
def headerRsv (h : Word) : BitVec 24 := h.extractLsb' 0 24

/-- The command of a frame whose checks have passed, its operands assembled (R72, R74, R77). -/
def assemble (op : Opcode) (ws : Frame) (payload : List Byte) : Instr :=
  match op with
  | .gfAdd => .gfAdd (byteArg ws 1) (byteArg ws 2)
  | .gfMul => .gfMul (byteArg ws 1) (byteArg ws 2)
  | .gfDiv => .gfDiv (byteArg ws 1) (byteArg ws 2)
  | .gfExp => .gfExp (byteArg ws 1) (wordArg ws 2)
  | .gfLog => .gfLog (byteArg ws 1)
  | .matBuild => .matBuild (wordArg ws 1) (wordArg ws 2)
  | .matMul =>
    .matMul (wordArg ws 1) (wordArg ws 2) (payload.take (natArg ws 1 * natArg ws 2))
      (splitBuffers (Format.fMM.bufferLengths ws) (payload.drop (natArg ws 1 * natArg ws 2)))
  | .matInv => .matInv (wordArg ws 1) (wordArg ws 2) payload
  | .vdmBuild => .vdmBuild (wordArg ws 1) (wordArg ws 2)
  | .raidConfig => .raidConfig (wordArg ws 1) (wordArg ws 2) (wordArg ws 3)
  | .encode => .encode (splitBuffers (Format.fEN.bufferLengths ws) payload)
  | .dropShard => .dropShard (wordArg ws 1)
  | .bitFlip => .bitFlip (wordArg ws 1) (wordArg ws 2)
  | .detect => .detect
  | .verify => .verify
  | .reconCorruption => .reconCorruption
  | .reconData => .reconData (payload.map byteBool)
  | .reconDisk => .reconDisk
  | .readShard => .readShard (wordArg ws 1)

/-- The checks of R80 after the header, in its order, and the command. -/
def decodeBody (op : Opcode) (ws : Frame) : Except DecodeError Instr :=
  let f := op.format
  if ws.length < 1 + f.argCount then .error .missingArguments
  else if ws.length < f.payloadStart ws then .error .missingLengthWords
  else if ws.length ≠ f.frameLength ws then .error .wrongLength
  else
    let bytes := unpack (ws.drop (f.payloadStart ws))
    let payload := bytes.take (f.payloadLength ws)
    if (bytes.drop (f.payloadLength ws)).any (· != 0x00) then .error .nonzeroPadding
    else if f.byteOperands.any (fun i => byteArgReserved ws i != 0) then .error .nonzeroOperandBits
    else if f = .fMK ∧ payload.any (fun b => decide (0x01 < b)) then .error .maskByteAboveOne
    else .ok (assemble op ws payload)

/-- `decode(W, N)` (R80): the command a frame spells, or the name of what is wrong with it. -/
def decode (ws : Frame) : Except DecodeError Instr :=
  match ws with
  | [] => .error .emptyFrame
  | h :: _ =>
    match Opcode.ofCode? (headerOpc h) with
    | none => .error .unassignedOpcode
    | some op => if headerRsv h ≠ 0 then .error .reservedHeaderBits else decodeBody op ws

/-! The encoder. -/

/-- The opcode of a command (R78). -/
def Instr.opcode : Instr → Opcode
  | .gfAdd _ _ => .gfAdd
  | .gfMul _ _ => .gfMul
  | .gfDiv _ _ => .gfDiv
  | .gfExp _ _ => .gfExp
  | .gfLog _ => .gfLog
  | .matBuild _ _ => .matBuild
  | .matMul _ _ _ _ => .matMul
  | .matInv _ _ _ => .matInv
  | .vdmBuild _ _ => .vdmBuild
  | .raidConfig _ _ _ => .raidConfig
  | .encode _ => .encode
  | .dropShard _ => .dropShard
  | .bitFlip _ _ => .bitFlip
  | .detect => .detect
  | .verify => .verify
  | .reconCorruption => .reconCorruption
  | .reconData _ => .reconData
  | .reconDisk => .reconDisk
  | .readShard _ => .readShard

/-- The header of a command: `OPC << 24`, RSV = 0 (R71, R78). -/
def headerWord (op : Opcode) : Word := zext32 op.code <<< 24

/-- The count and length words of a list of buffers (R77). -/
def bufferWords (bufs : List Buffer) : List Word := countWord bufs.length :: bufs.map fun b => countWord b.length

/-- The argument words of a command (R77). -/
def Instr.args : Instr → List Word
  | .gfAdd a b => [zext32 a, zext32 b]
  | .gfMul a b => [zext32 a, zext32 b]
  | .gfDiv a b => [zext32 a, zext32 b]
  | .gfExp base power => [zext32 base, power]
  | .gfLog a => [zext32 a]
  | .matBuild rows cols => [rows, cols]
  | .matMul m n _ bufs => m :: n :: bufferWords bufs
  | .matInv rows cols _ => [rows, cols]
  | .vdmBuild rows cols => [rows, cols]
  | .raidConfig k m cap => [k, m, cap]
  | .encode bufs => bufferWords bufs
  | .dropShard index => [index]
  | .bitFlip index bitpos => [index, bitpos]
  | .detect => []
  | .verify => []
  | .reconCorruption => []
  | .reconData mask => [countWord mask.length]
  | .reconDisk => []
  | .readShard index => [index]

/-- The payload bytes of a command (R74, R77). -/
def Instr.payload : Instr → List Byte
  | .gfAdd _ _ => []
  | .gfMul _ _ => []
  | .gfDiv _ _ => []
  | .gfExp _ _ => []
  | .gfLog _ => []
  | .matBuild _ _ => []
  | .matMul _ _ a bufs => a ++ bufs.flatten
  | .matInv _ _ a => a
  | .vdmBuild _ _ => []
  | .raidConfig _ _ _ => []
  | .encode bufs => bufs.flatten
  | .dropShard _ => []
  | .bitFlip _ _ => []
  | .detect => []
  | .verify => []
  | .reconCorruption => []
  | .reconData mask => mask.map boolByte
  | .reconDisk => []
  | .readShard _ => []

/-- The frame of a command: header, argument words, packed payload (R71, R72, R73, R75). -/
def encode (i : Instr) : Frame := headerWord i.opcode :: (i.args ++ pack i.payload)

/-! One row of the opcode table as a frame. -/

/-- The first `nbits` bits of w as words, bit 0 of w the least significant bit of word 0. -/
def tableWords (nbits w : Nat) : Frame :=
  (List.range ((nbits + 31) / 32)).map fun i => BitVec.ofNat 32 ((w % 2 ^ nbits) >>> (32 * i))

/-- The same words, filled up with zero words to the length R76 gives the frame (log 11). -/
def tableFrame (nbits w : Nat) : Frame :=
  let ws := tableWords nbits w
  match Opcode.ofCode? (headerOpc (wordArg ws 0)) with
  | none => ws
  | some op => ws ++ List.replicate (op.format.frameLength ws - ws.length) 0

/-- The command the decoder reads from a row's word, operand words above it zero. -/
def decodeTableWord (nbits w : Nat) : Option Instr := (decode (tableFrame nbits w)).toOption

end Sys2Proof
end

