-- ==== Sys2Proof/Config.lean ====
section
/-! DEFINITION. The parameters of spec/00_scope.md R5, fixed for the life of a model instance. -/

namespace Sys2Proof

/-- The pivot rule of Gauss-Jordan inversion, `PIVOT_MODE` (R5, R145). -/
inductive PivotMode where
  /-- mode `partial`: the least row at or below the pivot column with a nonzero entry -/
  | partialPivot
  /-- mode `none`: the diagonal entry, no row exchange -/
  | noPivot
deriving DecidableEq, Repr

/-- The five parameters of R5. `Params.Legal` (Machine/Field.lean) says which values R5 calls legal. -/
structure Params where
  /-- `GF_POLY`, bit i is the coefficient of x^i -/
  gfPoly : BitVec 9
  /-- `GF_GEN`, the base of GF_LOG -/
  gfGen : Byte
  /-- `PIVOT_MODE` -/
  pivotMode : PivotMode
  /-- `MAX_DIM`, the largest dimension MAT_BUILD, MAT_MUL and MAT_INV accept -/
  maxDim : Nat
  /-- `MAX_LEN`, the largest MAT_MUL buffer length and the largest shard capacity -/
  maxLen : Nat
deriving DecidableEq, Repr

/-- `MAX_DIM - 1`. The spec leaves MAX_DIM OPEN, an integer >= 1 (R5, D19): no body, so no proof sees a value.
DESIGN CHOICE, safe, log 2. -/
opaque Config.maxDimLessOne : Nat

/-- `MAX_LEN - 1`. The spec leaves MAX_LEN OPEN, an integer >= 1 (R5, D19): no body, so no proof sees a value.
DESIGN CHOICE, safe, log 2. -/
opaque Config.maxLenLessOne : Nat

/-- The parameters of this hardware: the spec's defaults (R5; the polynomial and the generator are marked there "from
general knowledge": PRESUMED, unsafe, log 1) and the two OPEN limits. -/
def Config.hardware : Params where
  gfPoly := 0x11D
  gfGen := 0x02
  pivotMode := .partialPivot
  maxDim := Config.maxDimLessOne + 1
  maxLen := Config.maxLenLessOne + 1

end Sys2Proof
end

