-- ==== Sys2Proof/Machine/Field.lean ====
section
/-! DEFINITION. GF(2^8) (spec/40_gf_arithmetic.md R110 to R120) and which parameters are legal (spec/00_scope.md R5). -/

namespace Sys2Proof.Machine

/-- Field addition, bitwise XOR (R9, R112). -/
def gadd (a b : Byte) : Byte := a ^^^ b

/-- Multiplication by x modulo the polynomial: `a <- (a << 1)[7:0]`, and `a <- a ^ GF_POLY[7:0]` on a carry (R113). -/
def xtime (poly : BitVec 9) (a : Byte) : Byte :=
  if a.getLsbD 7 then (a <<< 1) ^^^ poly.setWidth 8 else a <<< 1

/-- The loop of R113, `n` bits of b left, lowest first. -/
def gmulLoop (poly : BitVec 9) : Nat → Byte → Byte → Byte → Byte
  | 0, _, _, r => r
  | n + 1, a, b, r => gmulLoop poly n (xtime poly a) (b >>> 1) (if b.getLsbD 0 then gadd r a else r)

/-- `gmul(a, b)`, the field product (R113). -/
def gmul (poly : BitVec 9) (a b : Byte) : Byte := gmulLoop poly 8 a b 0x00

/-- `gexp(b, p)` as R117 writes it: repeated multiplication. -/
def gexpRepeat (poly : BitVec 9) (b : Byte) : Nat → Byte
  | 0 => 0x01
  | p + 1 => gmul poly (gexpRepeat poly b p) b

/-- Square and multiply, `fuel` bits of the power. -/
def gexpLoop (poly : BitVec 9) : Nat → Byte → Nat → Byte
  | 0, _, _ => 0x01
  | fuel + 1, b, p =>
    if p = 0 then 0x01
    else
      let r := gexpLoop poly fuel (gmul poly b b) (p / 2)
      if p % 2 = 1 then gmul poly r b else r

/-- `gexp(b, p)` in bounded time for any 32-bit power (R117, R119). Equal to `gexpRepeat` (DEDUCED, log 8). -/
def gexp (poly : BitVec 9) (b : Byte) (p : Nat) : Byte := gexpLoop poly (p.log2 + 1) b p

/-- `gdiv(a, b)` for b != 0 (R115), by the inverse b^254. The unique q with `gmul(q, b) = a` (DEDUCED, log 8); the callers
check b. -/
def gdiv (poly : BitVec 9) (a b : Byte) : Byte := gmul poly a (gexp poly b 254)

/-- `b^e, b^(e+1), …`, n of them, the first given. -/
def powersFrom (poly : BitVec 9) (g : Byte) : Nat → Byte → List Byte
  | 0, _ => []
  | n + 1, x => x :: powersFrom poly g n (gmul poly x g)

/-- `EXP_T`: GF_GEN^0 .. GF_GEN^254 (R111). -/
def expTable (p : Params) : List Byte := powersFrom p.gfPoly p.gfGen 255 0x01

/-- `glog(a) = LOG_T[a]` for a != 0 (R111, R120): the place of a in EXP_T. -/
def glog (p : Params) (a : Byte) : Nat := (expTable p).idxOf a

/-- g is primitive: the first of g^1, g^2, … that is 0x01 is g^255, so g^0 .. g^254 are the 255 nonzero bytes, each once
(R111; spec/93 G2 checks primitivity by this order). -/
def primitiveElement (poly : BitVec 9) (g : Byte) : Bool := (powersFrom poly g 255 g).idxOf 0x01 == 254

end Sys2Proof.Machine

namespace Sys2Proof

/-- The values R5 calls legal: GF_POLY of degree 8 and primitive (x generates every nonzero element), GF_GEN primitive
under it, both limits at least 1. -/
def Params.legal (p : Params) : Bool :=
  p.gfPoly.getLsbD 8 && Machine.primitiveElement p.gfPoly 0x02 && Machine.primitiveElement p.gfPoly p.gfGen
    && decide (1 ≤ p.maxDim) && decide (1 ≤ p.maxLen)

end Sys2Proof
end

