-- ==== Sys2Proof/Machine/Linear.lean ====
section
/-! DEFINITION. Matrix functions over GF(2^8): `matmul` (spec/41_matrix_engine.md R142), `ginvert` (R145) and the
encoding-matrix builder `VDM` (spec/42_encoding_matrix_builder.md R170 to R173). -/

namespace Sys2Proof.Machine

/-- Entry `A[i][j]` (R10). -/
def entry (a : Mat) (i j : Nat) : Byte := (a.getD i []).getD j 0x00

/-- Row i. -/
def matRow (a : Mat) (i : Nat) : Buffer := a.getD i []

/-- Column j of a list of buffers: byte j of each (R144). -/
def matCol (b : Mat) (j : Nat) : List Byte := b.map fun row => row.getD j 0x00

/-- `XOR` over a list; 0x00 for none (R9). -/
def xorAll (l : List Byte) : Byte := l.foldr gadd 0x00

/-- `XOR_k gmul(row[k], col[k])`. -/
def dot (poly : BitVec 9) (row col : List Byte) : Byte := xorAll (List.zipWith (gmul poly) row col)

/-- `matmul(A, B)` with buffers of length `len` (R142). -/
def matmul (poly : BitVec 9) (a b : Mat) (len : Nat) : Mat :=
  a.map fun row => (List.range len).map fun j => dot poly row (matCol b j)

/-- Row i of the n x n identity. -/
def unitRow (n i : Nat) : Buffer := (List.range n).map fun j => if j = i then 0x01 else 0x00

/-- The n x n identity. -/
def identityMat (n : Nat) : Mat := (List.range n).map (unitRow n)

/-- The zero matrix (R141). -/
def zeroMat (rows cols : Nat) : Mat := List.replicate rows (List.replicate cols 0x00)

/-- A augmented with the identity: row i is A[i], then the unit row (R145). -/
def augment (n : Nat) (a : Mat) : Mat := (List.range n).map fun i => matRow a i ++ unitRow n i

/-- The pivot row of column c, if there is one (R145, D35). -/
def pivotRow (mode : PivotMode) (n : Nat) (w : Mat) (c : Nat) : Option Nat :=
  match mode with
  | .partialPivot => (List.range' c (n - c)).find? fun r => entry w r c != 0x00
  | .noPivot => if entry w c c = 0x00 then none else some c

/-- Rows r and c exchanged (R145). -/
def swapRows (w : Mat) (r c : Nat) : Mat := (w.set r (matRow w c)).set c (matRow w r)

/-- Column c eliminated with the pivot in row c: row c is scaled by the pivot captured before, and every other row loses
its captured factor times row c (R145, R296). -/
def eliminate (poly : BitVec 9) (w : Mat) (c : Nat) : Mat :=
  let p := entry w c c
  let rowC := (matRow w c).map fun x => gdiv poly x p
  w.mapIdx fun r row =>
    if r = c then rowC
    else if row.getD c 0x00 = 0x00 then row
    else List.zipWith (fun x y => gadd x (gmul poly (row.getD c 0x00) y)) row rowC

/-- One column of Gauss-Jordan elimination; `none` when it finds no pivot (R145). -/
def gaussStep (poly : BitVec 9) (mode : PivotMode) (n : Nat) (w : Mat) (c : Nat) : Option Mat :=
  match pivotRow mode n w c with
  | none => none
  | some r => some (eliminate poly (if r = c then w else swapRows w r c) c)

/-- The columns `c`, `c + 1`, …, `count` of them. -/
def gaussFrom (poly : BitVec 9) (mode : PivotMode) (n : Nat) : Nat → Nat → Mat → Option Mat
  | 0, _, w => some w
  | count + 1, c, w =>
    match gaussStep poly mode n w c with
    | none => none
    | some w' => gaussFrom poly mode n count (c + 1) w'

/-- `ginvert(A)` of an n x n matrix (R145); `none` is `raise SingularMatrix()`, its only failure (R146). -/
def ginvert (poly : BitVec 9) (mode : PivotMode) (n : Nat) (a : Mat) : Option Mat :=
  match gaussFrom poly mode n n 0 (augment n a) with
  | none => none
  | some w => some (w.map fun row => row.drop n)

/-- The raw Vandermonde matrix `V[r][c] = gexp(byte(r), c)` (R170, R171). -/
def vandermonde (poly : BitVec 9) (rows cols : Nat) : Mat :=
  (List.range rows).map fun r => (List.range cols).map fun c => gexp poly (BitVec.ofNat 8 r) c

/-- Column r divided by the captured pivot p, in the rows at and below r (R172, R173(a)). -/
def scaleColumn (poly : BitVec 9) (r : Nat) (p : Byte) (m : Mat) : Mat :=
  m.mapIdx fun i row => if r ≤ i then row.set r (gdiv poly (row.getD r 0x00) p) else row

/-- `m[i][c1] <- m[i][c1] ^ gmul(t, m[i][r])` in every row, for the multiplier t captured before (R172, R173(b)). -/
def clearColumn (poly : BitVec 9) (r : Nat) (m : Mat) (c1 : Nat) : Mat :=
  let t := entry m r c1
  if c1 = r ∨ t = 0x00 then m
  else m.map fun row => row.set c1 (gadd (row.getD c1 0x00) (gmul poly t (row.getD r 0x00)))

/-- Step r of R172: scale column r, then clear row r in every other column. -/
def vdmStep (poly : BitVec 9) (cols : Nat) (m : Mat) (r : Nat) : Mat :=
  (List.range cols).foldl (clearColumn poly r) (scaleColumn poly r (entry m r r) m)

/-- `VDM(rows, cols)` (R172). -/
def vdm (poly : BitVec 9) (rows cols : Nat) : Mat :=
  (List.range' 1 (cols - 1)).foldl (vdmStep poly cols) (vandermonde poly rows cols)

end Sys2Proof.Machine
end

