-- ==== Sys2Proof/Machine/State.lean ====
section
/-! DEFINITION. The state of the block (spec/10_state.md R20 to R35), its two ports (spec/30_encoding.md R70,
spec/70_reset_and_hazards.md R299 to R301) and its reset state. Plain data. -/

namespace Sys2Proof.Machine

/-- A slot of the disk array (R30). -/
inductive Slot where
  /-- the explicit absent marker: an erased disk, no bytes -/
  | absent
  /-- a byte buffer, correct or corrupted -/
  | present (buf : Buffer)
deriving DecidableEq, Repr

/-- `ENGINE_STATE` (R34): bookkeeping that no command reads. -/
inductive EngineState where
  | unconfigured | empty | encoded | degraded | corrupted | unrecoverable
deriving DecidableEq, Repr

/-- The status names of R90. -/
inductive Status where
  | ok
  | invalidConfiguration | invalidDimensions | dimensionMismatch | divisionByZero | singularMatrix | invalidShardIndex
  | invalidBitPosition | targetShardAbsent | dataCorruptionUnrecoverable | insufficientShards
  | invalidReconstructionState | logOfZero | illegalCommand
deriving DecidableEq, Repr

/-- What the host does at the command port, in time order (R70, R290, R291, R300). -/
inductive HostEvent where
  /-- one whole command frame, any word sequence -/
  | frame (ws : Frame)
  /-- the reset input, between two commands -/
  | reset
  /-- a frame whose delivery or execution the reset input cuts off (R291) -/
  | cutFrame (ws : Frame)
deriving DecidableEq, Repr

/-- The machine has no fault: "No behaviour of this block is treated as `fault` or `stuck`" (spec/93, R268). No
constructor, so nobody raises one; safe (log 13). -/
inductive Fault where
deriving DecidableEq, Repr

/-- Why an instruction has no meaning. -/
inductive Refusal where
  /-- raised by an arm of `exec` whose command has no meaning yet; no arm does. Safe: the model stops where the block
  goes on -/
  | notModelled (mnemonic : String)
deriving DecidableEq, Repr

/-- Everything the spec gives the machine; INVENTORY.md lists each field with its rule. -/
structure State where
  /-- the parameters of R5, fixed for the life of the instance (the model's own field, log 1) -/
  params : Params
  /-- CFG.VALID (R23) -/
  cfgValid : Bool
  /-- CFG.K (R24) -/
  cfgK : Nat
  /-- CFG.M (R25) -/
  cfgM : Nat
  /-- CFG.CAP (R27) -/
  cfgCap : Nat
  /-- CFG.SHARD_LEN (R28) -/
  cfgShardLen : Nat
  /-- EM, the encoding matrix (R29) -/
  em : Mat
  /-- SLOT[0..T-1], the disk array (R30) -/
  slots : List Slot
  /-- ENGINE_STATE (R34) -/
  engineState : EngineState
  /-- the command port: what the host has sent or will send, oldest first (R70, R299) -/
  port : List HostEvent
  /-- the response port: the responses since the last reset, oldest first (R81, R301) -/
  responses : List Frame
deriving DecidableEq, Repr

/-- The state after reset of an instance with parameters `p` (R35, R290, R292). EM is undefined there and no command can
read it: the empty matrix is a DESIGN CHOICE, unsafe, log 3. -/
def State.powerOn (p : Params) : State where
  params := p
  cfgValid := false
  cfgK := 0
  cfgM := 0
  cfgCap := 0
  cfgShardLen := 0
  em := []
  slots := []
  engineState := .unconfigured
  port := []
  responses := []

/-- The state right after reset of this hardware. -/
def State.reset : State := State.powerOn Config.hardware

end Sys2Proof.Machine
end

