-- ==== Sys2Proof/Machine/Flags.lean ====
section
/-! DEFINITION. The block has no flags (spec/10_state.md R22): a command reports its outcome in the status word of its
response (spec/30_encoding.md R81, R90). This file holds the status codes, the response frames and the updates of the
bookkeeping state ENGINE_STATE (spec/10_state.md R34). -/

namespace Sys2Proof.Machine

/-- The status codes of R90. -/
def Status.code : Status → Byte
  | .ok => 0x00
  | .invalidConfiguration => 0x01
  | .invalidDimensions => 0x02
  | .dimensionMismatch => 0x03
  | .divisionByZero => 0x04
  | .singularMatrix => 0x05
  | .invalidShardIndex => 0x06
  | .invalidBitPosition => 0x07
  | .targetShardAbsent => 0x08
  | .dataCorruptionUnrecoverable => 0x09
  | .insufficientShards => 0x0A
  | .invalidReconstructionState => 0x0B
  | .logOfZero => 0x0C
  | .illegalCommand => 0x0D

/-- Word 0 of a response: the code in bits [7:0], bits [31:8] zero (R81). -/
def statusWord (st : Status) : Word := zext32 st.code

/-- The response of a failing command: the status word alone (R81, R265). -/
def errorResponse (st : Status) : Frame := [statusWord st]

/-- The response of a command that ends OK: status word, result words, packed payload (R81, R82). -/
def okResponse (words : List Word) (payload : List Byte) : Frame := statusWord .ok :: (words ++ pack payload)

/-- ENGINE_STATE after a failing command: the two unrecoverable statuses move it, every other leaves it (R34). -/
def EngineState.afterError (e : EngineState) (st : Status) : EngineState :=
  match st with
  | .insufficientShards | .dataCorruptionUnrecoverable => .unrecoverable
  | _ => e

/-- ENGINE_STATE after DROP_SHARD ok (R34). -/
def EngineState.afterDrop (e : EngineState) : EngineState :=
  match e with
  | .encoded | .corrupted | .degraded => .degraded
  | .unconfigured | .empty | .unrecoverable => e

/-- ENGINE_STATE after BIT_FLIP ok (R34). -/
def EngineState.afterFlip (e : EngineState) : EngineState :=
  match e with
  | .encoded => .corrupted
  | .unconfigured | .empty | .degraded | .corrupted | .unrecoverable => e

/-- ENGINE_STATE after a reconstruction command ok, from the slots it leaves (R34). -/
def EngineState.afterRecon (e : EngineState) (slots : List Slot) : EngineState :=
  if e = .unrecoverable then e
  else if slots.any (· == .absent) then .degraded
  else .encoded

end Sys2Proof.Machine
end

