-- ==== Sys2Proof/Machine/Ops.lean ====
section
/-! DEFINITION. The named operations over the block's stores (spec/00_scope.md R11, R12): reading and writing slots, ending
a command with a response, ending it with an error, the configured precondition and the reset input. -/

namespace Sys2Proof.Machine

/-- The outcome of a command. -/
abbrev Result := Host.Outcome State Fault Refusal

/-- T = K + M (R26). -/
def State.total (s : State) : Nat := s.cfgK + s.cfgM

/-- `SlotRead(i)` (R11). A slot past the array reads as Absent; every command checks its index first (log 14). -/
def State.slotRead (s : State) (i : Nat) : Slot := s.slots.getD i .absent

/-- `SlotWrite(i, v)` (R11). -/
def State.slotWrite (i : Nat) (v : Slot) (s : State) : State := { s with slots := s.slots.set i v }

/-- `present(i)` (43). -/
def State.isPresent (s : State) (i : Nat) : Bool :=
  match s.slotRead i with
  | .absent => false
  | .present _ => true

/-- The bytes of a slot; an absent slot has none (43, U9). -/
def Slot.bytes : Slot → Buffer
  | .absent => []
  | .present buf => buf

/-- `buf(i)` (43); the callers check that slot i is present. -/
def State.buf (s : State) (i : Nat) : Buffer := (s.slotRead i).bytes

/-- `SlotWrite(base + i, Present(rows[i]))` for every row, in order. -/
def State.writeRows (base : Nat) (rows : Mat) (s : State) : State :=
  (rows.zipIdx base).foldl (fun t row => t.slotWrite row.2 (.present row.1)) s

/-- The disk array's form (R30, R31(a)): `total` slots, every present buffer of `len` bytes. -/
def Memory.wf (slots : List Slot) (total len : Nat) : Bool :=
  slots.length == total && slots.all fun v => v == .absent || v.bytes.length == len

/-- The response leaves by the response port, after every earlier one (R60, R299). -/
def State.respond (r : Frame) (s : State) : State := { s with responses := s.responses ++ [r] }

/-- `return (words, payload)`: the command ends with status OK (R12, R82). -/
def complete (words : List Word) (payload : List Byte) (s : State) : Result :=
  .next (s.respond (okResponse words payload))

/-- `raise S()` (R12): the command ends with status S. Nothing of the architectural state changes (R262); only the
bookkeeping of R34 may. The block has no trap entry and no trap return (R270, R271): this is the whole of an error. -/
def raise (st : Status) (s : State) : Result :=
  .next { s.respond (errorResponse st) with engineState := s.engineState.afterError st }

/-- `require_configured()` (R191): the check of CFG.VALID before any other check of an engine command. -/
def requireConfigured (s : State) (body : Result) : Result :=
  if s.cfgValid then body else raise .invalidConfiguration s

/-- The reset input (R290, R291): every piece of state at its reset value, no response pending; the parameters are the
instance's, and `rest` is what the host does after the reset (log 5). -/
def State.applyReset (rest : List HostEvent) (s : State) : State := { State.powerOn s.params with port := rest }

end Sys2Proof.Machine
end

