-- ==== Sys2Proof/Machine/Matrix.lean ====
section
/-! DEFINITION. The matrix and builder commands (spec/41_matrix_engine.md, spec/42_encoding_matrix_builder.md): MAT_BUILD,
MAT_MUL, MAT_INV, VDM_BUILD. They read and write no architectural state and need no configuration. -/

namespace Sys2Proof.Machine

/-- A dimension the matrix commands accept: 1 <= d <= MAX_DIM (R140). -/
def dimOk (p : Params) (d : Word) : Bool := decide (1 ≤ d.toNat ∧ d.toNat ≤ p.maxDim)

/-- `len_0`, the length of the first buffer. -/
def firstLength (bufs : List Buffer) : Nat := (bufs.headD []).length

/-- Every buffer has the length of the first (R143, R200). -/
def equalLengths (bufs : List Buffer) : Bool := bufs.all fun b => b.length == firstLength bufs

/-- MAT_BUILD (R141). -/
def execMatBuild (rows cols : Word) (s : State) : Result :=
  if ¬ dimOk s.params rows ∨ ¬ dimOk s.params cols then raise .invalidDimensions s
  else complete [rows, cols] (zeroMat rows.toNat cols.toNat).flatten s

/-- MAT_MUL (R143), the checks in its order. -/
def execMatMul (m n : Word) (a : List Byte) (bufs : List Buffer) (s : State) : Result :=
  if ¬ dimOk s.params m ∨ ¬ dimOk s.params n then raise .invalidDimensions s
  else if bufs.length ≠ n.toNat then raise .dimensionMismatch s
  else if ¬ equalLengths bufs then raise .dimensionMismatch s
  else if firstLength bufs = 0 ∨ s.params.maxLen < firstLength bufs then raise .invalidDimensions s
  else
    complete [m, countWord (firstLength bufs)]
      (matmul s.params.gfPoly (reshape m.toNat n.toNat a) bufs (firstLength bufs)).flatten s

/-- MAT_INV (R147), the checks in its order. -/
def execMatInv (rows cols : Word) (a : List Byte) (s : State) : Result :=
  if ¬ dimOk s.params rows ∨ ¬ dimOk s.params cols then raise .invalidDimensions s
  else if rows ≠ cols then raise .dimensionMismatch s
  else
    match ginvert s.params.gfPoly s.params.pivotMode rows.toNat (reshape rows.toNat cols.toNat a) with
    | none => raise .singularMatrix s
    | some x => complete [rows] x.flatten s

/-- VDM_BUILD (R174). -/
def execVdmBuild (rows cols : Word) (s : State) : Result :=
  if ¬ (1 ≤ cols.toNat ∧ cols.toNat ≤ rows.toNat ∧ rows.toNat ≤ 256) then raise .invalidDimensions s
  else complete [rows, cols] (vdm s.params.gfPoly rows.toNat cols.toNat).flatten s

end Sys2Proof.Machine
end

