-- ==== Sys2Proof/Machine/Raid.lean ====
section
/-! DEFINITION. The erasure-coding engine (spec/43_raid_engine.md): RAID_CONFIG, ENCODE, DROP_SHARD, BIT_FLIP, DETECT,
READ_SHARD, VERIFY, RECON_CORRUPTION, RECON_DATA, RECON_DISK. -/

namespace Sys2Proof.Machine

/-- The state RAID_CONFIG leaves: every configuration register, EM and the whole disk array written (R190). -/
def State.configure (k m cap : Nat) (s : State) : State :=
  { s with
    cfgValid := true, cfgK := k, cfgM := m, cfgCap := cap, cfgShardLen := 0
    em := vdm s.params.gfPoly (k + m) k
    slots := List.replicate (k + m) .absent
    engineState := .empty }

/-- RAID_CONFIG (R190); sums are exact (R8). -/
def execRaidConfig (k m cap : Word) (s : State) : Result :=
  if k.toNat = 0 ∨ m.toNat = 0 ∨ 256 < k.toNat + m.toNat ∨ cap.toNat = 0 ∨ s.params.maxLen < cap.toNat then
    raise .invalidConfiguration s
  else complete [] [] (s.configure k.toNat m.toNat cap.toNat)

/-- The state ENCODE leaves: every slot holds its row of `EM * bufs` (R200). -/
def State.encodeShards (bufs : List Buffer) (s : State) : State :=
  { s.writeRows 0 (matmul s.params.gfPoly s.em bufs (firstLength bufs)) with
    cfgShardLen := firstLength bufs
    engineState := .encoded }

/-- ENCODE (R200), the checks in its order. -/
def execEncode (bufs : List Buffer) (s : State) : Result :=
  requireConfigured s <|
    if bufs.length ≠ s.cfgK then raise .dimensionMismatch s
    else if ¬ equalLengths bufs then raise .dimensionMismatch s
    else if firstLength bufs = 0 ∨ s.cfgCap < firstLength bufs then raise .invalidDimensions s
    else complete [] [] (s.encodeShards bufs)

/-- DROP_SHARD (R205). -/
def execDropShard (index : Word) (s : State) : Result :=
  requireConfigured s <|
    if s.total ≤ index.toNat then raise .invalidShardIndex s
    else complete [] [] { s.slotWrite index.toNat .absent with engineState := s.engineState.afterDrop }

/-- Bit p of a buffer inverted: bit p mod 8 of byte p div 8 (R55, R210). -/
def flipBit (p : Nat) (buf : Buffer) : Buffer :=
  buf.set (p / 8) (buf.getD (p / 8) 0x00 ^^^ ((0x01 : Byte) <<< (p % 8)))

/-- BIT_FLIP (R210), the checks in its order. -/
def execBitFlip (index bitpos : Word) (s : State) : Result :=
  requireConfigured s <|
    if s.total ≤ index.toNat then raise .invalidShardIndex s
    else if ¬ s.isPresent index.toNat then raise .targetShardAbsent s
    else if 8 * s.cfgShardLen ≤ bitpos.toNat then raise .invalidBitPosition s
    else
      complete [] []
        { s.slotWrite index.toNat (.present (flipBit bitpos.toNat (s.buf index.toNat))) with
          engineState := s.engineState.afterFlip }

/-- `detect()`: the Present/Absent tags of all slots (R216). -/
def State.presence (s : State) : List Bool := (List.range s.total).map s.isPresent

/-- DETECT (R215). -/
def execDetect (s : State) : Result :=
  requireConfigured s <| complete [countWord s.total] (s.presence.map boolByte) s

/-- READ_SHARD (R220). -/
def execReadShard (index : Word) (s : State) : Result :=
  requireConfigured s <|
    if s.total ≤ index.toNat then raise .invalidShardIndex s
    else
      match s.slotRead index.toNat with
      | .present buf => complete [1, countWord s.cfgShardLen] buf s
      | .absent => complete [0, 0] [] s

/-- The parity the data slots give: EM's parity rows times the data buffers, M x L (R230). -/
def State.recomputedParity (s : State) : Mat :=
  matmul s.params.gfPoly ((s.em.drop s.cfgK).take s.cfgM) ((List.range s.cfgK).map s.buf) s.cfgShardLen

/-- Parity slot K + j is present and equals the recomputed row, byte for byte (R230). -/
def State.parityValid (s : State) (j : Nat) : Bool := s.slotRead (s.cfgK + j) == .present (matRow s.recomputedParity j)

/-- `verify()` (R230): the validity of each parity slot and the recomputed parity. -/
def State.verifyParity (s : State) : Except Status (List Bool × Mat) :=
  if (List.range s.cfgK).any fun c => !s.isPresent c then .error .dimensionMismatch
  else .ok ((List.range s.cfgM).map s.parityValid, s.recomputedParity)

/-- VERIFY (R230, R82). -/
def execVerify (s : State) : Result :=
  requireConfigured s <|
    match s.verifyParity with
    | .error st => raise st s
    | .ok (valid, p) => complete [countWord s.cfgM, countWord s.cfgShardLen] (valid.map boolByte ++ p.flatten) s

/-- `SlotWrite(K + j, Present(P[j]))` for every j not valid (R240). -/
def State.repairParity (valid : List Bool) (p : Mat) (s : State) : State :=
  (List.range s.cfgM).foldl
    (fun t j => if valid.getD j true then t else t.slotWrite (s.cfgK + j) (.present (matRow p j))) s

/-- `recon_corruption()` (R240): the all-invalid heuristic kept as it stands (R241). -/
def State.reconCorruption (s : State) : Except Status State :=
  match s.verifyParity with
  | .error st => .error st
  | .ok (valid, p) =>
    if valid.all (!·) then .error .dataCorruptionUnrecoverable else .ok (s.repairParity valid p)

/-- The end of a reconstruction command: its error with nothing written (R262), or its writes. -/
def finishRecon (r : Except Status State) (s : State) : Result :=
  match r with
  | .error st => raise st s
  | .ok t => complete [] [] { t with engineState := s.engineState.afterRecon t.slots }

/-- RECON_CORRUPTION (R240). -/
def execReconCorruption (s : State) : Result := requireConfigured s <| finishRecon s.reconCorruption s

/-- The first k indices marked valid, ascending (R250). -/
def selectShards (k : Nat) (mask : List Bool) : List Nat :=
  ((List.range mask.length).filter fun i => mask.getD i false).take k

/-- `recon_data(mask)` (R250), the checks in its order; every gathered buffer is read before any slot is written (R296). -/
def State.reconData (mask : List Bool) (s : State) : Except Status State :=
  if mask.length ≠ s.total then .error .dimensionMismatch
  else
    let sel := selectShards s.cfgK mask
    if sel.length < s.cfgK then .error .insufficientShards
    else if sel.any fun i => !s.isPresent i then .error .targetShardAbsent
    else
      match ginvert s.params.gfPoly s.params.pivotMode s.cfgK (sel.map (matRow s.em)) with
      | none => .error .singularMatrix
      | some x => .ok (s.writeRows 0 (matmul s.params.gfPoly x (sel.map s.buf) s.cfgShardLen))

/-- RECON_DATA (R250). -/
def execReconData (mask : List Bool) (s : State) : Result := requireConfigured s <| finishRecon (s.reconData mask) s

/-- The case split of RECON_DISK on the present data and parity slots (R252). -/
def State.reconDisk (s : State) : Except Status State :=
  let mask := s.presence
  let nd := (mask.take s.cfgK).count true
  let np := (mask.drop s.cfgK).count true
  if nd + np < s.cfgK then .error .insufficientShards
  else if nd < s.cfgK then
    match s.reconData mask with
    | .error st => .error st
    | .ok t => t.reconCorruption
  else if nd = s.cfgK ∧ np < s.cfgM then s.reconCorruption
  else if nd = s.cfgK ∧ np = s.cfgM then .ok s
  else .error .invalidReconstructionState

/-- RECON_DISK (R252). -/
def execReconDisk (s : State) : Result := requireConfigured s <| finishRecon s.reconDisk s

end Sys2Proof.Machine
end

