-- ==== Sys2Proof/Machine/Scalar.lean ====
section
/-! DEFINITION. The scalar commands (spec/40_gf_arithmetic.md): GF_ADD, GF_MUL, GF_DIV, GF_EXP, GF_LOG. They read and
write no architectural state and need no configuration. -/

namespace Sys2Proof.Machine

/-- GF_ADD (R112). -/
def execGfAdd (a b : Byte) (s : State) : Result := complete [zext32 (gadd a b)] [] s

/-- GF_MUL (R114). -/
def execGfMul (a b : Byte) (s : State) : Result := complete [zext32 (gmul s.params.gfPoly a b)] [] s

/-- GF_DIV (R116). -/
def execGfDiv (a b : Byte) (s : State) : Result :=
  if b = 0x00 then raise .divisionByZero s
  else complete [zext32 (gdiv s.params.gfPoly a b)] [] s

/-- GF_EXP (R118). -/
def execGfExp (base : Byte) (power : Word) (s : State) : Result :=
  complete [zext32 (gexp s.params.gfPoly base power.toNat)] [] s

/-- GF_LOG (R121). -/
def execGfLog (a : Byte) (s : State) : Result :=
  if a = 0x00 then raise .logOfZero s
  else complete [countWord (glog s.params a)] [] s

end Sys2Proof.Machine
end

