-- ==== Sys2Proof/Machine/Dispatch.lean ====
section
/-! DEFINITION. One arm per command (spec/30_encoding.md R78). -/

namespace Sys2Proof.Machine

/-- The effect of one decoded command. -/
def exec (i : Instr) (s : State) : Host.Outcome State Fault Refusal :=
  match i with
  | .gfAdd a b => Sys2Proof.Machine.execGfAdd a b s
  | .gfMul a b => Sys2Proof.Machine.execGfMul a b s
  | .gfDiv a b => Sys2Proof.Machine.execGfDiv a b s
  | .gfExp base power => Sys2Proof.Machine.execGfExp base power s
  | .gfLog a => Sys2Proof.Machine.execGfLog a s
  | .matBuild rows cols => Sys2Proof.Machine.execMatBuild rows cols s
  | .matMul m n a bufs => Sys2Proof.Machine.execMatMul m n a bufs s
  | .matInv rows cols a => Sys2Proof.Machine.execMatInv rows cols a s
  | .vdmBuild rows cols => Sys2Proof.Machine.execVdmBuild rows cols s
  | .raidConfig k m cap => Sys2Proof.Machine.execRaidConfig k m cap s
  | .encode bufs => Sys2Proof.Machine.execEncode bufs s
  | .dropShard index => Sys2Proof.Machine.execDropShard index s
  | .bitFlip index bitpos => Sys2Proof.Machine.execBitFlip index bitpos s
  | .detect => Sys2Proof.Machine.execDetect s
  | .verify => Sys2Proof.Machine.execVerify s
  | .reconCorruption => Sys2Proof.Machine.execReconCorruption s
  | .reconData mask => Sys2Proof.Machine.execReconData mask s
  | .reconDisk => Sys2Proof.Machine.execReconDisk s
  | .readShard index => Sys2Proof.Machine.execReadShard index s

end Sys2Proof.Machine
end

