-- ==== Sys2Proof/Machine/Step.lean ====
section
/-! DEFINITION. One step of the block: it takes the next event of its command port (spec/20_memory.md R60,
spec/70_reset_and_hazards.md R290, R291, R299). -/

namespace Sys2Proof.Machine

/-- The event at the head of the port is taken off it. A frame is decoded and run to completion with exactly one response
(R260); a frame that spells no command is answered `IllegalCommand` and changes nothing (R79, R80). With nothing at the
port the block is idle, and idleness changes nothing (R278). -/
def step (s : State) : Host.Outcome State Fault Refusal :=
  match s.port with
  | [] => .next s
  | .reset :: rest => .next (s.applyReset rest)
  | .cutFrame _ :: rest => .next (s.applyReset rest)
  | .frame ws :: rest =>
    match decode ws with
    | .error _ => raise .illegalCommand { s with port := rest }
    | .ok i => exec i { s with port := rest }

/-- `s` with one row of the opcode table, operand words zero, as the next frame at its port (log 11). -/
def State.withFetchWord (s : State) (nbits w : Nat) : State :=
  { s with port := .frame (tableFrame nbits w) :: s.port }

end Sys2Proof.Machine
end

