-- ==== Sys2Proof/Safety.lean ====
section
/-! DEFINITION. What counts as a good state and a safe step (spec/10_state.md R23 to R31, spec/60_exceptions.md R260,
R262, R268). -/

namespace Sys2Proof.Machine

/-- The architectural state of R20: the configuration registers, EM and the disk array. -/
structure ArchState where
  cfgValid : Bool
  cfgK : Nat
  cfgM : Nat
  cfgCap : Nat
  cfgShardLen : Nat
  em : Mat
  slots : List Slot
deriving DecidableEq, Repr

/-- The architectural part of a state (R20). -/
def State.arch (s : State) : ArchState := ⟨s.cfgValid, s.cfgK, s.cfgM, s.cfgCap, s.cfgShardLen, s.em, s.slots⟩

/-- What holds of a configured block: the ranges of R24 to R28, the disk array's form and R31(a), R31(b), R31(c). -/
structure State.Configured (s : State) : Prop where
  valid : s.cfgValid = true
  kPos : 1 ≤ s.cfgK
  mPos : 1 ≤ s.cfgM
  totalLe : s.total ≤ 256
  capPos : 1 ≤ s.cfgCap
  capLe : s.cfgCap ≤ s.params.maxLen
  capWord : s.cfgCap < 2 ^ 32
  lenLe : s.cfgShardLen ≤ s.cfgCap
  slotsWf : Memory.wf s.slots s.total s.cfgShardLen = true
  presentLen : (∃ i, s.isPresent i = true) → 1 ≤ s.cfgShardLen
  emBuilt : s.em = vdm s.params.gfPoly s.total s.cfgK

/-- What holds of an unconfigured block (R30, R35): no slots, every configuration register 0. -/
structure State.Unconfigured (s : State) : Prop where
  invalid : s.cfgValid = false
  kZero : s.cfgK = 0
  mZero : s.cfgM = 0
  capZero : s.cfgCap = 0
  lenZero : s.cfgShardLen = 0
  noSlots : s.slots = []

/-- The invariants of R31 with the ranges of R23 to R28; every step keeps them, and reset has them. -/
def State.Inv (s : State) : Prop := s.Configured ∨ s.Unconfigured

/-- A run is safe when no step stops: the block accepts the next command after any response (R260, R268). -/
def State.StepSafe (s : State) : Prop := ∃ t, step s = .next t

end Sys2Proof.Machine
end

