-- ==== Sys2Proof/Certificates/Slice0/Obligations.lean ====
section
/-! DEFINITION. The statements for the provers. Every statement is about every state (or every state that meets a named
invariant) and every operand its docstring does not exclude; an engine statement that takes `s.Configured` uses the
invariant that `StepKeepsTheInvariant` and `ResetMeetsTheInvariant` state. `s.params.legal` says the parameters are
values R5 calls legal. -/

namespace Sys2Proof.Claims

open Sys2Proof.Machine

/-- `s` with one more response and nothing else changed. -/
def answered (s : State) (r : Frame) : State := { s with responses := s.responses ++ [r] }

/-- `s` with a one-word error response and ENGINE_STATE `Unrecoverable` (R34), nothing else changed. -/
def gaveUp (s : State) (code : Word) : State := { answered s [code] with engineState := .unrecoverable }

/-- `XOR_{k < n} f(k)` (R9). -/
def xorOver (n : Nat) (f : Nat → Byte) : Byte := (List.range n).foldr (fun k acc => f k ^^^ acc) 0x00

/-- `a` is a rows x cols table (R140). -/
def IsMat (rows cols : Nat) (a : Mat) : Prop := a.length = rows ∧ ∀ row ∈ a, row.length = cols

/-- The product of the leading n x n parts of `a` and `x` is the n x n identity. -/
def IsInverse (poly : BitVec 9) (n : Nat) (a x : Mat) : Prop :=
  ∀ i < n, ∀ j < n, xorOver n (fun k => gmul poly (entry a i k) (entry x k j)) = if i = j then 0x01 else 0x00

/-- Row i of `EM * d` for data buffers `d` of length `len` (R142, R200). -/
def codeRow (s : State) (d : Mat) (len i : Nat) : Buffer :=
  (List.range len).map fun j => xorOver s.cfgK fun c => gmul s.params.gfPoly (entry s.em i c) (entry d c j)

/-- The buffers of the data slots (R230). -/
def dataBuffers (s : State) : Mat := (List.range s.cfgK).map s.buf

/-- The parity row j recomputed from the data slots (R230). -/
def parityRow (s : State) (j : Nat) : Buffer := codeRow s (dataBuffers s) s.cfgShardLen (s.cfgK + j)

/-- Every slot holds its row of `EM * d`: the premise `encoded(D)` of R302. -/
def HoldsCode (s : State) (d : Mat) : Prop :=
  IsMat s.cfgK s.cfgShardLen d ∧ ∀ i < s.total, s.slotRead i = .present (codeRow s d s.cfgShardLen i)

/-- `sel` is the first `k` indices that `mask` marks, ascending (R250). -/
def IsSelection (k : Nat) (mask : List Bool) (sel : List Nat) : Prop :=
  sel.length = k ∧ sel.Pairwise (· < ·) ∧ (∀ i ∈ sel, mask.getD i false = true) ∧
    ∀ i, mask.getD i false = true → i ∉ sel → ∀ j ∈ sel, j < i

/-- The number of present slots among `n` from `base` on. -/
def presentCount (s : State) (base n : Nat) : Nat := (List.range n).countP fun i => s.isPresent (base + i)

/-- The present data slots are 0..nd-1 for some nd (R254(d)). -/
def DataPrefix (s : State) : Prop := ∃ nd ≤ s.cfgK, ∀ c < s.cfgK, s.slotRead c ≠ .absent ↔ c < nd

/-- A dimension MAT_BUILD, MAT_MUL and MAT_INV accept (R140). -/
def DimOk (s : State) (d : Word) : Prop := 1 ≤ d.toNat ∧ d.toNat ≤ s.params.maxDim

/-- The polynomial over GF(2) whose coefficient of x^i is bit i (R110). -/
noncomputable def polyOf {n : Nat} (v : BitVec n) : Polynomial (ZMod 2) :=
  ∑ i ∈ Finset.range n, if v.getLsbD i then Polynomial.X ^ i else 0

/-! Legal frames, written on the numbers of R71 to R80. -/

/-- The format of an opcode number (R78). -/
def formatOf (opc : Nat) : Option Format :=
  if opc ∈ [0x01, 0x02, 0x03] then some .fS2
  else if opc = 0x04 then some .fSE
  else if opc = 0x05 then some .fS1
  else if opc ∈ [0x10, 0x20] then some .fD2
  else if opc = 0x11 then some .fMM
  else if opc = 0x12 then some .fMI
  else if opc = 0x30 then some .fCF
  else if opc = 0x31 then some .fEN
  else if opc ∈ [0x32, 0x39] then some .fIX
  else if opc = 0x33 then some .fBF
  else if opc ∈ [0x34, 0x35, 0x36, 0x38] then some .fZ
  else if opc = 0x37 then some .fMK
  else none

/-- `W[i]` as a number. -/
def w (ws : Frame) (i : Nat) : Nat := (ws.getD i 0).toNat

/-- The frame has `start` words and then exactly ceil(p/4) payload words, and the last one's padding is zero (R75, R76). -/
def PayloadFits (start p : Nat) (ws : Frame) : Prop :=
  ws.length = start + (p + 3) / 4 ∧ (p % 4 ≠ 0 → w ws (ws.length - 1) / 2 ^ (8 * (p % 4)) = 0)

/-- The length words from `from` on, `nb` of them, summed (R77). -/
def sumLengths (start nb : Nat) (ws : Frame) : Nat := ((List.range nb).map fun i => w ws (start + i)).sum

/-- The body of a legal frame of format `f` (R76, R77, R79). -/
def LegalBody (f : Format) (ws : Frame) : Prop :=
  match f with
  | .fZ => ws.length = 1
  | .fS1 => ws.length = 2 ∧ w ws 1 < 256
  | .fS2 => ws.length = 3 ∧ w ws 1 < 256 ∧ w ws 2 < 256
  | .fSE => ws.length = 3 ∧ w ws 1 < 256
  | .fD2 => ws.length = 3
  | .fBF => ws.length = 3
  | .fCF => ws.length = 4
  | .fIX => ws.length = 2
  | .fMI => PayloadFits 3 (w ws 1 * w ws 2) ws
  | .fMM => PayloadFits (4 + w ws 3) (w ws 1 * w ws 2 + sumLengths 4 (w ws 3) ws) ws
  | .fEN => PayloadFits (2 + w ws 1) (sumLengths 2 (w ws 1) ws) ws
  | .fMK => PayloadFits 2 (w ws 1) ws ∧ ∀ n < w ws 1, w ws (2 + n / 4) / 2 ^ (8 * (n % 4)) % 256 ≤ 1

/-- A legal frame (R80): not empty, OPC assigned, RSV zero, and a body its format allows. -/
def LegalFrame (ws : Frame) : Prop :=
  1 ≤ ws.length ∧ w ws 0 % 2 ^ 24 = 0 ∧ ∃ f, formatOf (w ws 0 / 2 ^ 24) = some f ∧ LegalBody f ws

/-- ENGINE_STATE after a command with this status word, from the table of R34; `slots` are the slots it leaves. -/
def engineStateAfter (i : Instr) (status : Word) (old : EngineState) (slots : List Slot) : EngineState :=
  if status = 0x09 ∨ status = 0x0A then .unrecoverable
  else if status ≠ 0x00 then old
  else
    match i with
    | .raidConfig _ _ _ => .empty
    | .encode _ => .encoded
    | .dropShard _ => if old = .encoded ∨ old = .corrupted ∨ old = .degraded then .degraded else old
    | .bitFlip _ _ => if old = .encoded then .corrupted else old
    | .reconCorruption | .reconData _ | .reconDisk =>
      if old = .unrecoverable then old else if Slot.absent ∈ slots then .degraded else .encoded
    | _ => old

/-- The commands that access no state (R33). -/
def IsPure : Instr → Prop
  | .gfAdd _ _ | .gfMul _ _ | .gfDiv _ _ | .gfExp _ _ | .gfLog _ => True
  | .matBuild _ _ | .matMul _ _ _ _ | .matInv _ _ _ | .vdmBuild _ _ => True
  | _ => False

/-- The nine engine commands of R191. -/
def NeedsConfiguration : Instr → Prop
  | .encode _ | .dropShard _ | .bitFlip _ _ | .detect | .readShard _ => True
  | .verify | .reconCorruption | .reconData _ | .reconDisk => True
  | _ => False

/-- The slots a command may not write stay as they were (the SLOT column of R33's table). -/
def SlotsKept (i : Instr) (s t : State) : Prop :=
  match i with
  | .raidConfig _ _ _ | .encode _ => True
  | .dropShard index | .bitFlip index _ =>
    t.slots.length = s.slots.length ∧ ∀ j, j ≠ index.toNat → t.slotRead j = s.slotRead j
  | .reconCorruption => t.slots.length = s.slots.length ∧ ∀ j < s.cfgK, t.slotRead j = s.slotRead j
  | .reconData _ => t.slots.length = s.slots.length ∧ ∀ j, s.cfgK ≤ j → t.slotRead j = s.slotRead j
  | .reconDisk => t.slots.length = s.slots.length
  | _ => t.slots = s.slots

end Sys2Proof.Claims

open Sys2Proof Sys2Proof.Machine Sys2Proof.Claims

/-! Frames and decoding. -/

/-- R71 to R80: decoding the frame of a well-formed command gives the command back, every operand at every value. -/
def Obligations.DecodeOfEncodeIsTheCommand : Prop :=
  ∀ i : Instr, i.wellFormed = true → decode (Sys2Proof.encode i) = .ok i

/-- R71 to R80, the other way: a frame that decodes is exactly the frame of the command it decodes to, so no bit of a
legal frame is dropped and no two frames spell one command; and decoding gives well-formed commands only. -/
def Obligations.EncodeOfDecodeIsTheFrame : Prop :=
  ∀ (ws : Frame) (i : Instr), decode ws = .ok i → Sys2Proof.encode i = ws ∧ i.wellFormed = true

/-- R80: "A frame is legal exactly when `decode` returns." -/
def Obligations.FrameDecodesExactlyWhenLegal : Prop :=
  ∀ ws : Frame, (∃ i, decode ws = .ok i) ↔ LegalFrame ws

/-- R79, R80: a frame that is not legal is answered `IllegalCommand` (0x0D) and changes no state. -/
def Obligations.IllegalFrameIsAnsweredAndChangesNothing : Prop :=
  ∀ (s : State) (ws : Frame) (rest : List HostEvent), s.port = .frame ws :: rest → ¬ LegalFrame ws →
    step s = .next (answered { s with port := rest } [0x0D])

/-- R60, R70, R299: a step takes the frame at the head of the port and is `exec` of the command it decodes to, at the state
without that frame; nothing is added around `exec` (there is no program counter, R21). That the port is a list of host
events in State is the model's form of it (log 4). -/
def Obligations.StepRunsTheDecodedCommand : Prop :=
  ∀ (s : State) (ws : Frame) (rest : List HostEvent) (i : Instr), s.port = .frame ws :: rest → decode ws = .ok i →
    step s = exec i { s with port := rest }

/-- R77, R78: frames written out from the spec's encoding, one or more of each family, decode to the commands they stand
for. -/
def Obligations.SpecFramesDecodeAsWritten : Prop :=
  decode [0x03000000, 0x00000001, 0x00000002] = .ok (.gfDiv 0x01 0x02) ∧
  decode [0x04000000, 0x00000002, 0xFFFFFFFF] = .ok (.gfExp 0x02 0xFFFFFFFF) ∧
  decode [0x11000000, 2, 2, 2, 3, 3, 0x04030201, 0x00050001, 0x00000701] =
    .ok (.matMul 2 2 [0x01, 0x02, 0x03, 0x04] [[0x01, 0x00, 0x05], [0x00, 0x01, 0x07]]) ∧
  decode [0x12000000, 2, 3, 0x04030201, 0x00000605] = .ok (.matInv 2 3 [0x01, 0x02, 0x03, 0x04, 0x05, 0x06]) ∧
  decode [0x20000000, 3, 2] = .ok (.vdmBuild 3 2) ∧
  decode [0x31000000, 2, 2, 2, 0x04030201] = .ok (.encode [[0x01, 0x02], [0x03, 0x04]]) ∧
  decode [0x33000000, 3, 15] = .ok (.bitFlip 3 15) ∧
  decode [0x37000000, 4, 0x00010100] = .ok (.reconData [false, true, true, false])

/-- R73, R75: P payload bytes take ceil(P/4) words; byte n is bits [8(n mod 4)+7 : 8(n mod 4)] of word n div 4, and the
bytes past the payload are 0x00; unpacking reads the same bytes. -/
def Obligations.PayloadPackingIsLittleEndianZeroPadded : Prop :=
  (∀ bytes : List Byte, (pack bytes).length = (bytes.length + 3) / 4 ∧
    ∀ n, ((pack bytes).getD (n / 4) 0).extractLsb' (8 * (n % 4)) 8 = bytes.getD n 0x00) ∧
  (∀ (ws : List Word) (n : Nat), (unpack ws).getD n 0x00 = (ws.getD (n / 4) 0).extractLsb' (8 * (n % 4)) 8)

/-! Reset, idling and whole-machine rules. -/

/-- R35, R290, R291, R292: the reset state has the values the spec gives (EM has none) and nothing at either port; and the
reset input, alone or cutting a frame off, leaves those values from ANY state, with no response pending and none produced
for the cut frame. The parameters stay (R5). That the earlier responses are no longer held, and that the host's later
events stay at the port, is the model's choice (log 5). -/
def Obligations.ResetLeavesTheSpecsValues : Prop :=
  (State.reset.cfgValid = false ∧ State.reset.cfgK = 0 ∧ State.reset.cfgM = 0 ∧ State.reset.cfgCap = 0 ∧
    State.reset.cfgShardLen = 0 ∧ State.reset.slots = [] ∧ State.reset.engineState = .unconfigured ∧
    State.reset.port = [] ∧ State.reset.responses = []) ∧
  ∀ (s : State) (rest : List HostEvent) (ws : Frame), s.port = .reset :: rest ∨ s.port = .cutFrame ws :: rest →
    ∃ t, step s = .next t ∧ t.cfgValid = false ∧ t.cfgK = 0 ∧ t.cfgM = 0 ∧ t.cfgCap = 0 ∧ t.cfgShardLen = 0 ∧
      t.slots = [] ∧ t.engineState = .unconfigured ∧ t.responses = [] ∧ t.port = rest ∧ t.params = s.params

/-- R278: "Between commands it is idle, and idleness changes no state." That the model takes an idle step at all when
nothing is at the port is its choice (log 4). -/
def Obligations.IdleStepChangesNothing : Prop :=
  ∀ s : State, s.port = [] → step s = .next s

/-- R268, R297: the block has no fault, no stuck state and no hang: every step from every state answers a next state; and
R5, "Each is fixed for the life of a model instance": it changes no parameter. -/
def Obligations.EveryStepAnswersANextStateWithTheSameParameters : Prop :=
  ∀ s : State, ∃ t, step s = .next t ∧ t.params = s.params

/-- R260, R81, R90: a frame gets exactly one response; its word 0 is a status code 0x00 to 0x0D; a status other than OK is
the whole response; the frame leaves the port. That the responses are kept as a list, the new one last, is the model's form
of R299 and R301 (log 6). -/
def Obligations.EveryFrameGetsExactlyOneResponse : Prop :=
  ∀ (s : State) (ws : Frame) (rest : List HostEvent), s.port = .frame ws :: rest →
    ∃ t status words, step s = .next t ∧ t.responses = s.responses ++ [status :: words] ∧ t.port = rest ∧
      status.toNat ≤ 0x0D ∧ (status ≠ 0x00 → words = [])

/-- R262: a command that ends with an error leaves every piece of architectural state as it was. -/
def Obligations.FailingCommandLeavesTheArchitecturalState : Prop :=
  ∀ (s t : State) (ws : Frame) (rest : List HostEvent) (status : Word) (words : List Word),
    s.port = .frame ws :: rest → step s = .next t → t.responses = s.responses ++ [status :: words] → status ≠ 0x00 →
      t.arch = s.arch

/-- R31 with the ranges of R23 to R28: every step keeps the invariant, from every state that meets it. -/
def Obligations.StepKeepsTheInvariant : Prop :=
  ∀ s t : State, s.Inv → step s = .next t → t.Inv

/-- R31: the invariant holds after reset. -/
def Obligations.ResetMeetsTheInvariant : Prop := State.reset.Inv

/-- R191: each of the nine engine commands fails with `InvalidConfiguration` (0x01) while CFG.VALID is 0, before any other
check, and changes nothing. -/
def Obligations.UnconfiguredEngineCommandIsRefused : Prop :=
  ∀ (i : Instr) (s : State), NeedsConfiguration i → s.cfgValid = false → exec i s = .next (answered s [0x01])

/-- R33, the W entries: which commands write which state. CFG.VALID, K, M, CAP and EM only RAID_CONFIG; CFG.SHARD_LEN only
RAID_CONFIG and ENCODE; the slots as the SLOT column says. The port and the parameters are written by none. -/
def Obligations.CommandsWriteOnlyTheirListedState : Prop :=
  ∀ (i : Instr) (s t : State), exec i s = .next t →
    ((∀ k m cap, i ≠ .raidConfig k m cap) →
      t.cfgValid = s.cfgValid ∧ t.cfgK = s.cfgK ∧ t.cfgM = s.cfgM ∧ t.cfgCap = s.cfgCap ∧ t.em = s.em) ∧
    ((∀ k m cap, i ≠ .raidConfig k m cap) → (∀ bufs, i ≠ .encode bufs) → t.cfgShardLen = s.cfgShardLen) ∧
    SlotsKept i s t ∧ t.port = s.port ∧ t.params = s.params

/-- R33: the scalar, matrix and builder commands "are pure functions of their frame": two states with the same parameters
get the same response, and nothing else changes. -/
def Obligations.PureCommandsDependOnNoState : Prop :=
  ∀ (i : Instr) (s s' : State), IsPure i → s.params = s'.params →
    ∃ r, exec i s = .next (answered s r) ∧ exec i s' = .next (answered s' r)

/-- R264: status, result words and new architectural state are functions of the frame, the architectural state and the
parameters: ENGINE_STATE, what waits at the port and the earlier responses do not matter. -/
def Obligations.OutcomeDependsOnFrameAndArchitecturalStateOnly : Prop :=
  ∀ (s s' : State) (ws : Frame) (rest rest' : List HostEvent), s.port = .frame ws :: rest → s'.port = .frame ws :: rest' →
    s.arch = s'.arch → s.params = s'.params →
      ∃ t t' r, step s = .next t ∧ step s' = .next t' ∧ t.arch = t'.arch ∧ t.responses = s.responses ++ [r] ∧
        t'.responses = s'.responses ++ [r]

/-- R58: DETECT, READ_SHARD and VERIFY change no state, and repeating one returns the same response. -/
def Obligations.ReadsChangeNothingAndRepeat : Prop :=
  ∀ (i : Instr) (s : State), (i = .detect ∨ i = .verify ∨ ∃ index, i = .readShard index) →
    ∃ r, exec i s = .next (answered s r) ∧ exec i (answered s r) = .next (answered (answered s r) r)

/-- R34: ENGINE_STATE after a command is what R34's table gives for the command, its status and the slots it leaves. -/
def Obligations.EngineStateFollowsTheTable : Prop :=
  ∀ (i : Instr) (s : State), ∃ t status words, exec i s = .next t ∧ t.responses = s.responses ++ [status :: words] ∧
    t.engineState = engineStateAfter i status s.engineState t.slots

/-- R34: "no reconstruction command leaves it; only ENCODE, RAID_CONFIG or reset does": a step that leaves `Unrecoverable`
ran ENCODE or RAID_CONFIG, or the reset input. -/
def Obligations.UnrecoverableIsLeftOnlyByEncodeConfigOrReset : Prop :=
  ∀ s t : State, s.engineState = .unrecoverable → step s = .next t → t.engineState ≠ .unrecoverable →
    (∃ rest, s.port = .reset :: rest) ∨ (∃ ws rest, s.port = .cutFrame ws :: rest) ∨
    ∃ ws rest, s.port = .frame ws :: rest ∧
      ((∃ bufs, decode ws = .ok (.encode bufs)) ∨ ∃ k m cap, decode ws = .ok (.raidConfig k m cap))

/-- R111: "Only GF_LOG (rule R121) depends on `GF_GEN`": any other command gives the same response and architectural state
under another generator. -/
def Obligations.OnlyGfLogDependsOnTheGenerator : Prop :=
  ∀ (i : Instr) (s : State) (g : Byte), (∀ a, i ≠ .gfLog a) →
    ∃ t t' r, exec i s = .next t ∧ exec i { s with params := { s.params with gfGen := g } } = .next t' ∧
      t.arch = t'.arch ∧ t.responses = s.responses ++ [r] ∧ t'.responses = s.responses ++ [r]

/-! GF(2^8). -/

/-- R122: the field laws; the two laws of division under legal parameters. -/
def Obligations.FieldLaws : Prop :=
  ∀ (p : Params) (a b c : Byte),
    a ^^^ b = b ^^^ a ∧ (a ^^^ b) ^^^ b = a ∧
    gmul p.gfPoly a b = gmul p.gfPoly b a ∧
    gmul p.gfPoly (gmul p.gfPoly a b) c = gmul p.gfPoly a (gmul p.gfPoly b c) ∧
    gmul p.gfPoly a (b ^^^ c) = gmul p.gfPoly a b ^^^ gmul p.gfPoly a c ∧
    gmul p.gfPoly a 0x00 = 0x00 ∧ gmul p.gfPoly a 0x01 = a ∧
    (p.legal = true → b ≠ 0x00 →
      gdiv p.gfPoly (gmul p.gfPoly a b) b = a ∧ gmul p.gfPoly (gdiv p.gfPoly a b) b = a)

/-- R123: 0x00 alone has no inverse, the field has no zero divisors, and multiplication by a nonzero byte is a bijection on
bytes. -/
def Obligations.NonzeroElementsAreUnits : Prop :=
  ∀ p : Params, p.legal = true →
    (∀ b, b ≠ 0x00 → gmul p.gfPoly (gdiv p.gfPoly 0x01 b) b = 0x01) ∧ (∀ q, gmul p.gfPoly q 0x00 ≠ 0x01) ∧
    (∀ a b, gmul p.gfPoly a b = 0x00 ↔ a = 0x00 ∨ b = 0x00) ∧
    (∀ c, c ≠ 0x00 → Function.Bijective fun a => gmul p.gfPoly c a)

/-- R110, R113: `gmul` is the product of the operands' polynomials reduced modulo p(x), for every GF_POLY of degree 8. -/
def Obligations.GmulIsThePolynomialProductModuloTheFieldPolynomial : Prop :=
  ∀ (poly : BitVec 9) (a b : Byte), poly.getLsbD 8 = true →
    polyOf poly ∣ polyOf a * polyOf b - polyOf (gmul poly a b)

/-- R112: GF_ADD, its encoding, its result and its frame. It never fails. -/
def Obligations.GfAddReturnsTheXor : Prop :=
  ∀ (s : State) (a b : Byte),
    Sys2Proof.encode (.gfAdd a b) = [0x01000000, zext32 a, zext32 b] ∧
    exec (.gfAdd a b) s = .next (answered s [0x00, zext32 (a ^^^ b)])

/-- R114: GF_MUL, its encoding, its result (the field product of R113, stated in
`GmulIsThePolynomialProductModuloTheFieldPolynomial` and `FieldLaws`) and its frame. It never fails. -/
def Obligations.GfMulReturnsTheProduct : Prop :=
  ∀ (s : State) (a b : Byte),
    Sys2Proof.encode (.gfMul a b) = [0x02000000, zext32 a, zext32 b] ∧
    exec (.gfMul a b) s = .next (answered s [0x00, zext32 (gmul s.params.gfPoly a b)])

/-- R115, R116: GF_DIV by 0x00 fails with DivisionByZero (0x04) whatever a is; by any other b it completes with one result
byte q, and under legal parameters q is the unique byte with `gmul(q, b) = a`. -/
def Obligations.GfDivReturnsTheUniqueQuotient : Prop :=
  ∀ (s : State) (a b : Byte),
    Sys2Proof.encode (.gfDiv a b) = [0x03000000, zext32 a, zext32 b] ∧
    (b = 0x00 → exec (.gfDiv a b) s = .next (answered s [0x04])) ∧
    (b ≠ 0x00 → ∃ q, exec (.gfDiv a b) s = .next (answered s [0x00, zext32 q]) ∧
      (s.params.legal = true → gmul s.params.gfPoly q b = a ∧ ∀ q', gmul s.params.gfPoly q' b = a → q' = q))

/-- R117, R118: GF_EXP returns `base` multiplied by itself `power` times, for every 32-bit power; it never fails. -/
def Obligations.GfExpIsRepeatedMultiplication : Prop :=
  ∀ (s : State) (base : Byte) (power : Word),
    Sys2Proof.encode (.gfExp base power) = [0x04000000, zext32 base, power] ∧
    exec (.gfExp base power) s = .next (answered s [0x00, zext32 (gexpRepeat s.params.gfPoly base power.toNat)])

/-- R117, R119: `gexp(b, p)` is repeated multiplication for every natural p, so `gexp(x, 0) = 1` and `gexp(0, p) = 0` for
p >= 1; and for b != 0 it has period 255. -/
def Obligations.PowersFollowTheirRecurrenceAndPeriod : Prop :=
  ∀ (p : Params) (b : Byte) (n : Nat),
    gexp p.gfPoly b 0 = 0x01 ∧ gexp p.gfPoly b (n + 1) = gmul p.gfPoly (gexp p.gfPoly b n) b ∧
    gexp p.gfPoly 0x00 (n + 1) = 0x00 ∧
    (p.legal = true → b ≠ 0x00 → gexp p.gfPoly b (n + 255) = gexp p.gfPoly b n)

/-- R120, R121: GF_LOG of 0x00 fails with LogOfZero (0x0C); otherwise it returns the unique e in 0..254 with
`gexp(GF_GEN, e) = a`. -/
def Obligations.GfLogReturnsTheUniqueExponent : Prop :=
  ∀ (s : State) (a : Byte),
    Sys2Proof.encode (.gfLog a) = [0x05000000, zext32 a] ∧
    (a = 0x00 → exec (.gfLog a) s = .next (answered s [0x0C])) ∧
    (a ≠ 0x00 → s.params.legal = true →
      ∃ e < 255, gexpRepeat s.params.gfPoly s.params.gfGen e = a ∧
        (∀ e' < 255, gexpRepeat s.params.gfPoly s.params.gfGen e' = a → e' = e) ∧
        exec (.gfLog a) s = .next (answered s [0x00, BitVec.ofNat 32 e]))

/-! The matrix engine and the builder. -/

/-- R141: MAT_BUILD refuses a dimension outside 1..MAX_DIM with InvalidDimensions (0x02); otherwise it returns the dimensions
and rows*cols zero bytes. -/
def Obligations.MatBuildReturnsTheZeroMatrix : Prop :=
  ∀ (s : State) (rows cols : Word),
    Sys2Proof.encode (.matBuild rows cols) = [0x10000000, rows, cols] ∧
    (¬ (DimOk s rows ∧ DimOk s cols) → exec (.matBuild rows cols) s = .next (answered s [0x02])) ∧
    (DimOk s rows → DimOk s cols →
      exec (.matBuild rows cols) s =
        .next (answered s (0x00 :: rows :: cols :: pack (List.replicate (rows.toNat * cols.toNat) 0x00))))

/-- R142: `matmul(A, B)` of an m x n matrix and n buffers of length L is m x L, with entry (i, j) the XOR over k of
`gmul(A[i][k], B[k][j])`. -/
def Obligations.MatmulEntriesAreTheXorOfProducts : Prop :=
  ∀ (poly : BitVec 9) (m n len : Nat) (a b : Mat), IsMat m n a → IsMat n len b →
    IsMat m len (matmul poly a b len) ∧
    ∀ i < m, ∀ j < len,
      entry (matmul poly a b len) i j = xorOver n fun k => gmul poly (entry a i k) (entry b k j)

/-- R144: column j of the product depends only on column j of the buffers. -/
def Obligations.ByteLanesAreIndependent : Prop :=
  ∀ (poly : BitVec 9) (a b b' : Mat) (len len' j : Nat), j < len → j < len' → matCol b j = matCol b' j →
    ∀ i, entry (matmul poly a b len) i j = entry (matmul poly a b' len') i j

/-- R143: MAT_MUL, its checks in order and its result: m, L and the m*L product bytes, row-major. -/
def Obligations.MatMulChecksInOrderAndReturnsTheProduct : Prop :=
  ∀ (s : State) (m n : Word) (a : List Byte) (bufs : List Buffer), (Instr.matMul m n a bufs).wellFormed = true →
    Sys2Proof.encode (.matMul m n a bufs) =
      0x11000000 :: m :: n :: BitVec.ofNat 32 bufs.length ::
        (bufs.map (fun b => BitVec.ofNat 32 b.length) ++ pack (a ++ bufs.flatten)) ∧
    (¬ (DimOk s m ∧ DimOk s n) → exec (.matMul m n a bufs) s = .next (answered s [0x02])) ∧
    (DimOk s m → DimOk s n →
      (bufs.length ≠ n.toNat → exec (.matMul m n a bufs) s = .next (answered s [0x03])) ∧
      (bufs.length = n.toNat →
        ((∃ b ∈ bufs, ∃ b' ∈ bufs, b.length ≠ b'.length) → exec (.matMul m n a bufs) s = .next (answered s [0x03])) ∧
        ∀ len, (∀ b ∈ bufs, b.length = len) →
          (len = 0 ∨ s.params.maxLen < len → exec (.matMul m n a bufs) s = .next (answered s [0x02])) ∧
          (1 ≤ len → len ≤ s.params.maxLen →
            ∃ c : List Byte, c.length = m.toNat * len ∧
              (∀ i < m.toNat, ∀ j < len, c.getD (i * len + j) 0x00 =
                xorOver n.toNat fun k => gmul s.params.gfPoly (a.getD (i * n.toNat + k) 0x00) (entry bufs k j)) ∧
              exec (.matMul m n a bufs) s = .next (answered s (0x00 :: m :: BitVec.ofNat 32 len :: pack c)))))

/-- R147: MAT_INV, its checks in order: dimensions (0x02), shape (0x03), pivot failure of `ginvert` (0x05), and otherwise n
and the n*n bytes of the matrix `ginvert` returns, row-major. What `ginvert` returns is the subject of
`PartialPivotingInvertsExactlyTheInvertible` and `NoPivotingInvertsExactlyWithInvertibleLeadingBlocks`. -/
def Obligations.MatInvChecksInOrderAndReturnsGinvert : Prop :=
  ∀ (s : State) (rows cols : Word) (a : Mat), IsMat rows.toNat cols.toNat a →
    Sys2Proof.encode (.matInv rows cols a.flatten) = 0x12000000 :: rows :: cols :: pack a.flatten ∧
    (¬ (DimOk s rows ∧ DimOk s cols) → exec (.matInv rows cols a.flatten) s = .next (answered s [0x02])) ∧
    (DimOk s rows → DimOk s cols →
      (rows ≠ cols → exec (.matInv rows cols a.flatten) s = .next (answered s [0x03])) ∧
      (rows = cols →
        (ginvert s.params.gfPoly s.params.pivotMode rows.toNat a = none →
          exec (.matInv rows cols a.flatten) s = .next (answered s [0x05])) ∧
        ∀ x, ginvert s.params.gfPoly s.params.pivotMode rows.toNat a = some x →
          exec (.matInv rows cols a.flatten) s = .next (answered s (0x00 :: rows :: pack x.flatten))))

/-- R148, mode `partial`: MAT_INV of an n x n matrix returns its inverse whenever it has one, and fails with SingularMatrix
(0x05) exactly when it has none. -/
def Obligations.PartialPivotingInvertsExactlyTheInvertible : Prop :=
  ∀ (s : State) (n : Word) (a : Mat), s.params.legal = true → s.params.pivotMode = .partialPivot → DimOk s n →
    IsMat n.toNat n.toNat a →
      (∀ x, IsMat n.toNat n.toNat x → IsInverse s.params.gfPoly n.toNat a x →
        exec (.matInv n n a.flatten) s = .next (answered s (0x00 :: n :: pack x.flatten))) ∧
      ((¬ ∃ x, IsMat n.toNat n.toNat x ∧ IsInverse s.params.gfPoly n.toNat a x) →
        exec (.matInv n n a.flatten) s = .next (answered s [0x05]))

/-- R148, mode `none`: MAT_INV returns the same unique inverse when every leading principal submatrix is invertible, and fails
with SingularMatrix (0x05) exactly when one is not. -/
def Obligations.NoPivotingInvertsExactlyWithInvertibleLeadingBlocks : Prop :=
  ∀ (s : State) (n : Word) (a : Mat), s.params.legal = true → s.params.pivotMode = .noPivot → DimOk s n →
    IsMat n.toNat n.toNat a →
      ((∀ t, 1 ≤ t → t ≤ n.toNat → ∃ y, IsInverse s.params.gfPoly t a y) →
        ∀ x, IsMat n.toNat n.toNat x → IsInverse s.params.gfPoly n.toNat a x →
          exec (.matInv n n a.flatten) s = .next (answered s (0x00 :: n :: pack x.flatten))) ∧
      ((∃ t, 1 ≤ t ∧ t ≤ n.toNat ∧ ¬ ∃ y, IsInverse s.params.gfPoly t a y) →
        exec (.matInv n n a.flatten) s = .next (answered s [0x05]))

/-- R174: VDM_BUILD refuses unless 1 <= cols <= rows <= 256 (0x02); otherwise it returns rows, cols and the rows*cols bytes of
`VDM(rows, cols)`. -/
def Obligations.VdmBuildReturnsTheEncodingMatrix : Prop :=
  ∀ (s : State) (rows cols : Word),
    Sys2Proof.encode (.vdmBuild rows cols) = [0x20000000, rows, cols] ∧
    (¬ (1 ≤ cols.toNat ∧ cols.toNat ≤ rows.toNat ∧ rows.toNat ≤ 256) →
      exec (.vdmBuild rows cols) s = .next (answered s [0x02])) ∧
    (1 ≤ cols.toNat → cols.toNat ≤ rows.toNat → rows.toNat ≤ 256 →
      IsMat rows.toNat cols.toNat (vdm s.params.gfPoly rows.toNat cols.toNat) ∧
      exec (.vdmBuild rows cols) s =
        .next (answered s (0x00 :: rows :: cols :: pack (vdm s.params.gfPoly rows.toNat cols.toNat).flatten)))

/-- R170: entry (r, c) of the raw Vandermonde matrix is byte(r) multiplied by itself c times; column 0 is all 0x01 and row 0
is [01 00 ... 00]. -/
def Obligations.VandermondeEntriesArePowers : Prop :=
  ∀ (poly : BitVec 9) (rows cols r c : Nat), r < rows → c < cols →
    entry (vandermonde poly rows cols) r c = gexpRepeat poly (BitVec.ofNat 8 r) c ∧
    entry (vandermonde poly rows cols) r 0 = 0x01 ∧
    entry (vandermonde poly rows cols) 0 c = if c = 0 then 0x01 else 0x00

/-- R178: rows 0 to cols-1 of `VDM(rows, cols)` are the identity. And R175, which with that fixes every parity coefficient:
`VDM(rows, cols) = V · V_top^{-1}`, said without the inverse as `VDM · V_top = V`, for V the raw Vandermonde matrix of
`VandermondeEntriesArePowers` and V_top its first cols rows. -/
def Obligations.VdmTopBlockIsTheIdentity : Prop :=
  ∀ (p : Params) (rows cols : Nat), p.legal = true → 1 ≤ cols → cols ≤ rows → rows ≤ 256 →
    (∀ i < cols, ∀ j < cols, entry (vdm p.gfPoly rows cols) i j = if i = j then 0x01 else 0x00) ∧
    matmul p.gfPoly (vdm p.gfPoly rows cols) ((vandermonde p.gfPoly rows cols).take cols) cols =
      vandermonde p.gfPoly rows cols

/-- R177, the MDS property: any cols rows of `VDM(rows, cols)`, in any order, form an invertible matrix. -/
def Obligations.AnyColsRowsOfVdmAreInvertible : Prop :=
  ∀ (p : Params) (rows cols : Nat) (sel : List Nat), p.legal = true → 1 ≤ cols → cols ≤ rows → rows ≤ 256 →
    sel.length = cols → sel.Nodup → (∀ i ∈ sel, i < rows) →
      ∃ x, IsMat cols cols x ∧ IsInverse p.gfPoly cols (sel.map (matRow (vdm p.gfPoly rows cols))) x

/-! The erasure-coding engine. -/

/-- R190: RAID_CONFIG refuses bad arguments with InvalidConfiguration (0x01) and keeps the old configuration; otherwise it
writes every configuration register, EM and every slot. -/
def Obligations.RaidConfigWritesTheConfiguration : Prop :=
  ∀ (s : State) (k m cap : Word),
    Sys2Proof.encode (.raidConfig k m cap) = [0x30000000, k, m, cap] ∧
    ((k.toNat = 0 ∨ m.toNat = 0 ∨ 256 < k.toNat + m.toNat ∨ cap.toNat = 0 ∨ s.params.maxLen < cap.toNat) →
      exec (.raidConfig k m cap) s = .next (answered s [0x01])) ∧
    (1 ≤ k.toNat → 1 ≤ m.toNat → k.toNat + m.toNat ≤ 256 → 1 ≤ cap.toNat → cap.toNat ≤ s.params.maxLen →
      exec (.raidConfig k m cap) s =
        .next { answered s [0x00] with
          cfgValid := true, cfgK := k.toNat, cfgM := m.toNat, cfgCap := cap.toNat, cfgShardLen := 0
          em := vdm s.params.gfPoly (k.toNat + m.toNat) k.toNat
          slots := List.replicate (k.toNat + m.toNat) .absent
          engineState := .empty })

/-- R294(3): what the engine commands answer right after a successful RAID_CONFIG, before any ENCODE. -/
def Obligations.CommandsRightAfterRaidConfig : Prop :=
  ∀ (s t : State) (k m cap index bitpos : Word), exec (.raidConfig k m cap) s = .next t →
    t.responses = s.responses ++ [[0x00]] → index.toNat < k.toNat + m.toNat →
      exec .detect t = .next (answered t (0x00 :: BitVec.ofNat 32 (k.toNat + m.toNat) ::
        pack (List.replicate (k.toNat + m.toNat) 0x00))) ∧
      exec (.readShard index) t = .next (answered t [0x00, 0x00, 0x00]) ∧
      exec (.bitFlip index bitpos) t = .next (answered t [0x08]) ∧
      exec .verify t = .next (answered t [0x03]) ∧
      exec .reconCorruption t = .next (answered t [0x03]) ∧
      exec .reconDisk t = .next (gaveUp t 0x0A) ∧
      (∀ mask : List Bool, mask.length = k.toNat + m.toNat →
        exec (.reconData mask) t =
          .next (if mask.count true < k.toNat then gaveUp t 0x0A else answered t [0x08])) ∧
      ∃ u, exec (.dropShard index) t = .next u ∧ u.responses = t.responses ++ [[0x00]] ∧ u.arch = t.arch

/-- R200: ENCODE, its checks in order, and the state it leaves: every slot i present with row i of `EM * bufs`, the shard
length the buffers' length. -/
def Obligations.EncodeChecksInOrderAndWritesEverySlot : Prop :=
  ∀ (s : State) (bufs : List Buffer), s.Configured →
    Sys2Proof.encode (.encode bufs) =
      0x31000000 :: BitVec.ofNat 32 bufs.length ::
        (bufs.map (fun b => BitVec.ofNat 32 b.length) ++ pack bufs.flatten) ∧
    (bufs.length ≠ s.cfgK → exec (.encode bufs) s = .next (answered s [0x03])) ∧
    (bufs.length = s.cfgK →
      ((∃ b ∈ bufs, ∃ b' ∈ bufs, b.length ≠ b'.length) → exec (.encode bufs) s = .next (answered s [0x03])) ∧
      ∀ len, (∀ b ∈ bufs, b.length = len) →
        (len = 0 ∨ s.cfgCap < len → exec (.encode bufs) s = .next (answered s [0x02])) ∧
        (1 ≤ len → len ≤ s.cfgCap →
          exec (.encode bufs) s =
            .next { answered s [0x00] with
              cfgShardLen := len
              slots := (List.range s.total).map fun i => .present (codeRow s bufs len i)
              engineState := .encoded }))

/-- R201: after a successful ENCODE of D, slot c < K holds D_c, and parity slot K + j the XOR over c of
`gmul(EM[K+j][c], D_c)`, bytewise. -/
def Obligations.EncodeIsSystematic : Prop :=
  ∀ (s : State) (bufs : List Buffer) (len : Nat), s.Configured → s.params.legal = true → IsMat s.cfgK len bufs →
    1 ≤ len → len ≤ s.cfgCap →
      ∃ t, exec (.encode bufs) s = .next t ∧
        (∀ c < s.cfgK, t.slotRead c = .present (bufs.getD c [])) ∧
        ∀ j < s.cfgM, t.slotRead (s.cfgK + j) = .present ((List.range len).map fun x =>
          xorOver s.cfgK fun c => gmul s.params.gfPoly (entry s.em (s.cfgK + j) c) (entry bufs c x))

/-- R205: DROP_SHARD refuses an index outside [0, T) (0x06); otherwise the slot is Absent, every other slot as before, and
dropping an absent slot succeeds. ENGINE_STATE is what R34's table gives. -/
def Obligations.DropShardMakesOneSlotAbsent : Prop :=
  ∀ (s : State) (index : Word), s.Configured →
    Sys2Proof.encode (.dropShard index) = [0x32000000, index] ∧
    (s.total ≤ index.toNat → exec (.dropShard index) s = .next (answered s [0x06])) ∧
    (index.toNat < s.total →
      ∃ t, exec (.dropShard index) s = .next t ∧
        t = { answered s [0x00] with
          slots := t.slots, engineState := engineStateAfter (.dropShard index) 0x00 s.engineState t.slots } ∧
        t.slots.length = s.slots.length ∧ t.slotRead index.toNat = .absent ∧
        ∀ j, j ≠ index.toNat → t.slotRead j = s.slotRead j)

/-- R210: BIT_FLIP, its checks in order, and the slot it leaves: the same length, bit `bitpos mod 8` of byte `bitpos div 8`
inverted and every other bit of every slot as before; a second flip of the same bit restores the array. -/
def Obligations.BitFlipInvertsExactlyOneBit : Prop :=
  ∀ (s : State) (index bitpos : Word), s.Configured →
    Sys2Proof.encode (.bitFlip index bitpos) = [0x33000000, index, bitpos] ∧
    (s.total ≤ index.toNat → exec (.bitFlip index bitpos) s = .next (answered s [0x06])) ∧
    (index.toNat < s.total → s.slotRead index.toNat = .absent →
      exec (.bitFlip index bitpos) s = .next (answered s [0x08])) ∧
    ∀ buf, index.toNat < s.total → s.slotRead index.toNat = .present buf →
      (8 * s.cfgShardLen ≤ bitpos.toNat → exec (.bitFlip index bitpos) s = .next (answered s [0x07])) ∧
      (bitpos.toNat < 8 * s.cfgShardLen →
        ∃ t buf', exec (.bitFlip index bitpos) s = .next t ∧
          t = { answered s [0x00] with slots := t.slots, engineState := t.engineState } ∧
          t.slotRead index.toNat = .present buf' ∧ buf'.length = buf.length ∧
          (∀ n b, b < 8 → (buf'.getD n 0x00).getLsbD b =
            ((buf.getD n 0x00).getLsbD b ^^ decide (8 * n + b = bitpos.toNat))) ∧
          t.slots.length = s.slots.length ∧ (∀ j, j ≠ index.toNat → t.slotRead j = s.slotRead j) ∧
          ∃ u, exec (.bitFlip index bitpos) t = .next u ∧ u.slots = s.slots)

/-- R215: DETECT returns T and one byte a slot, 0x01 for present and 0x00 for absent. -/
def Obligations.DetectReportsPresence : Prop :=
  Sys2Proof.encode .detect = [0x34000000] ∧
  ∀ s : State, s.Configured →
    exec .detect s = .next (answered s (0x00 :: BitVec.ofNat 32 (s.cfgK + s.cfgM) ::
      pack ((List.range (s.cfgK + s.cfgM)).map fun i => if s.slotRead i = .absent then 0x00 else 0x01)))

/-- R220: READ_SHARD refuses an index outside [0, T) (0x06); a present slot is returned with its length, an absent one as the
absent marker. -/
def Obligations.ReadShardReturnsTheSlot : Prop :=
  ∀ (s : State) (index : Word), s.Configured →
    Sys2Proof.encode (.readShard index) = [0x39000000, index] ∧
    (s.total ≤ index.toNat → exec (.readShard index) s = .next (answered s [0x06])) ∧
    (index.toNat < s.total →
      (s.slotRead index.toNat = .absent → exec (.readShard index) s = .next (answered s [0x00, 0x00, 0x00])) ∧
      ∀ buf, s.slotRead index.toNat = .present buf →
        buf.length = s.cfgShardLen ∧
        exec (.readShard index) s = .next (answered s (0x00 :: 0x01 :: BitVec.ofNat 32 s.cfgShardLen :: pack buf)))

/-- R230: VERIFY fails with DimensionMismatch (0x03) when a data slot is absent; otherwise it returns M, L, one validity byte a
parity slot (present and byte-equal to the recomputation) and the recomputed parity. It writes nothing. -/
def Obligations.VerifyRecomputesTheParity : Prop :=
  Sys2Proof.encode .verify = [0x35000000] ∧
  ∀ s : State, s.Configured →
    ((∃ c < s.cfgK, s.slotRead c = .absent) → exec .verify s = .next (answered s [0x03])) ∧
    ((∀ c < s.cfgK, s.slotRead c ≠ .absent) →
      exec .verify s = .next (answered s (0x00 :: BitVec.ofNat 32 s.cfgM :: BitVec.ofNat 32 s.cfgShardLen ::
        pack (((List.range s.cfgM).map fun j =>
            if s.slotRead (s.cfgK + j) = .present (parityRow s j) then 0x01 else 0x00) ++
          ((List.range s.cfgM).map (parityRow s)).flatten))))

/-- R240: RECON_CORRUPTION fails with VERIFY's DimensionMismatch (0x03), fails with DataCorruptionUnrecoverable (0x09) when
every parity slot is invalid, and otherwise leaves every parity slot present with its recomputed value and the data slots as
they were. ENGINE_STATE is what R34's table gives. -/
def Obligations.ReconCorruptionRepairsInvalidParity : Prop :=
  Sys2Proof.encode .reconCorruption = [0x36000000] ∧
  ∀ s : State, s.Configured →
    ((∃ c < s.cfgK, s.slotRead c = .absent) → exec .reconCorruption s = .next (answered s [0x03])) ∧
    ((∀ c < s.cfgK, s.slotRead c ≠ .absent) →
      ((∀ j < s.cfgM, s.slotRead (s.cfgK + j) ≠ .present (parityRow s j)) →
        exec .reconCorruption s = .next (gaveUp s 0x09)) ∧
      ((∃ j < s.cfgM, s.slotRead (s.cfgK + j) = .present (parityRow s j)) →
        ∃ t, exec .reconCorruption s = .next t ∧
          t = { answered s [0x00] with
            slots := t.slots, engineState := engineStateAfter .reconCorruption 0x00 s.engineState t.slots } ∧
          t.slots.length = s.slots.length ∧ (∀ c < s.cfgK, t.slotRead c = s.slotRead c) ∧
          ∀ j < s.cfgM, t.slotRead (s.cfgK + j) = .present (parityRow s j)))

/-- R250: RECON_DATA, its checks in order (0x03, 0x0A, 0x08, 0x05), and the state it leaves: every data slot c holds row c of
the inverse times the gathered buffers; the parity slots are as they were. -/
def Obligations.ReconDataChecksInOrderAndWritesTheDataSlots : Prop :=
  ∀ (s : State) (mask : List Bool), s.Configured →
    Sys2Proof.encode (.reconData mask) =
      0x37000000 :: BitVec.ofNat 32 mask.length :: pack (mask.map fun b => if b then 0x01 else 0x00) ∧
    (mask.length ≠ s.total → exec (.reconData mask) s = .next (answered s [0x03])) ∧
    (mask.length = s.total →
      (mask.count true < s.cfgK → exec (.reconData mask) s = .next (gaveUp s 0x0A)) ∧
      ∀ sel, IsSelection s.cfgK mask sel →
        ((∃ i ∈ sel, s.slotRead i = .absent) → exec (.reconData mask) s = .next (answered s [0x08])) ∧
        ((∀ i ∈ sel, s.slotRead i ≠ .absent) →
          (ginvert s.params.gfPoly s.params.pivotMode s.cfgK (sel.map (matRow s.em)) = none →
            exec (.reconData mask) s = .next (answered s [0x05])) ∧
          ∀ x, ginvert s.params.gfPoly s.params.pivotMode s.cfgK (sel.map (matRow s.em)) = some x →
            ∃ t, exec (.reconData mask) s = .next t ∧
              t = { answered s [0x00] with slots := t.slots, engineState := t.engineState } ∧
              t.slots.length = s.slots.length ∧
              (∀ c < s.cfgK, t.slotRead c = .present ((List.range s.cfgShardLen).map fun j =>
                xorOver s.cfgK fun k => gmul s.params.gfPoly (entry x c k) (entry (sel.map s.buf) k j))) ∧
              ∀ j, s.cfgK ≤ j → t.slotRead j = s.slotRead j))

/-- R251. In mode `partial` RECON_DATA never fails with SingularMatrix (0x05), whatever its mask and whatever the slots hold.
And when every selected slot holds the value an ENCODE of D gave it: in mode `partial` it succeeds; in either mode, if it
succeeds it writes back exactly D, and every selected parity slot is then valid in the sense of R230. -/
def Obligations.ReconDataRecoversTheEncodedData : Prop :=
  ∀ (s t : State) (mask : List Bool), s.Configured → s.params.legal = true → exec (.reconData mask) s = .next t →
    (s.params.pivotMode = .partialPivot → t.responses ≠ s.responses ++ [[0x05]]) ∧
    ∀ (d : Mat) (sel : List Nat), IsMat s.cfgK s.cfgShardLen d → mask.length = s.total → IsSelection s.cfgK mask sel →
      (∀ i ∈ sel, s.slotRead i = .present (codeRow s d s.cfgShardLen i)) →
        (s.params.pivotMode = .partialPivot → t.responses = s.responses ++ [[0x00]]) ∧
        (t.responses = s.responses ++ [[0x00]] →
          (∀ c < s.cfgK, t.slotRead c = .present (d.getD c [])) ∧
          ∀ j < s.cfgM, s.cfgK + j ∈ sel → t.slotRead (s.cfgK + j) = .present (parityRow t j))

/-- R252: the case split of RECON_DISK. Too few slots: InsufficientShards (0x0A). Every slot present: success and no change,
even if a slot is corrupted. Every data slot present and a parity slot absent: RECON_CORRUPTION alone. A data slot absent:
RECON_DATA with the presence mask, then RECON_CORRUPTION; RECON_DATA's SingularMatrix (0x05) ends it with no change. -/
def Obligations.ReconDiskCaseSplit : Prop :=
  Sys2Proof.encode .reconDisk = [0x38000000] ∧
  ∀ s : State, s.Configured →
    (presentCount s 0 s.cfgK + presentCount s s.cfgK s.cfgM < s.cfgK → exec .reconDisk s = .next (gaveUp s 0x0A)) ∧
    ((∀ i < s.total, s.slotRead i ≠ .absent) →
      ∃ t, exec .reconDisk s = .next t ∧ t = { answered s [0x00] with engineState := t.engineState }) ∧
    ((∀ c < s.cfgK, s.slotRead c ≠ .absent) → (∃ j < s.cfgM, s.slotRead (s.cfgK + j) = .absent) →
      exec .reconDisk s = exec .reconCorruption s) ∧
    (s.cfgK ≤ presentCount s 0 s.cfgK + presentCount s s.cfgK s.cfgM → (∃ c < s.cfgK, s.slotRead c = .absent) →
      (exec (.reconData s.presence) s = .next (answered s [0x05]) → exec .reconDisk s = .next (answered s [0x05])) ∧
      ∀ u v, exec (.reconData s.presence) s = .next u → u.responses = s.responses ++ [[0x00]] →
        exec .reconCorruption u = .next v → v.responses = u.responses ++ [[0x00]] →
          ∃ t, exec .reconDisk s = .next t ∧ t.arch = v.arch ∧ t.responses = s.responses ++ [[0x00]])

/-- R253(c): after RECON_DISK's RECON_DATA succeeds, the RECON_CORRUPTION that follows never fails. -/
def Obligations.ReconDiskSecondStepNeverFails : Prop :=
  ∀ s u : State, s.Configured → s.params.legal = true → (∃ c < s.cfgK, s.slotRead c = .absent) →
    exec (.reconData s.presence) s = .next u → u.responses = s.responses ++ [[0x00]] →
      ∃ v, exec .reconCorruption u = .next v ∧ v.responses = u.responses ++ [[0x00]]

/-- R253(a), R90: no command ever answers InvalidReconstructionState (0x0B), from any state. -/
def Obligations.InvalidReconstructionStateIsNeverAnswered : Prop :=
  ∀ (s t : State) (ws : Frame) (rest : List HostEvent), s.port = .frame ws :: rest → step s = .next t →
    t.responses ≠ s.responses ++ [[0x0B]]

/-- R254, all four cases: every slot holds its encoded value or is Absent. (a) Fewer than K present: RECON_DISK fails with
InsufficientShards (0x0A). (b) Exactly the M parity slots lost: it fails with DataCorruptionUnrecoverable (0x09). (c), (d)
Otherwise it restores the whole array in mode `partial`, and in mode `none` when the present data slots are 0..nd-1 for some
nd (`DataPrefix`; no data slot lost is nd = K); in mode `none` with any other loss it fails with SingularMatrix (0x05). A
failure changes nothing. -/
def Obligations.ReconDiskRestoresUpToMErasures : Prop :=
  ∀ (s : State) (d : Mat), s.Configured → s.params.legal = true → IsMat s.cfgK s.cfgShardLen d →
    (∀ i < s.total, s.slotRead i = .absent ∨ s.slotRead i = .present (codeRow s d s.cfgShardLen i)) →
      (presentCount s 0 s.cfgK + presentCount s s.cfgK s.cfgM < s.cfgK → exec .reconDisk s = .next (gaveUp s 0x0A)) ∧
      (presentCount s 0 s.cfgK = s.cfgK → presentCount s s.cfgK s.cfgM = 0 →
        exec .reconDisk s = .next (gaveUp s 0x09)) ∧
      (s.cfgK ≤ presentCount s 0 s.cfgK + presentCount s s.cfgK s.cfgM →
        ¬ (presentCount s 0 s.cfgK = s.cfgK ∧ presentCount s s.cfgK s.cfgM = 0) →
        (s.params.pivotMode = .partialPivot ∨ DataPrefix s →
          ∃ t, exec .reconDisk s = .next t ∧
            t = { answered s [0x00] with
              slots := (List.range s.total).map fun i => .present (codeRow s d s.cfgShardLen i)
              engineState := engineStateAfter .reconDisk 0x00 s.engineState t.slots }) ∧
        (s.params.pivotMode = .noPivot → ¬ DataPrefix s → exec .reconDisk s = .next (answered s [0x05])))

/-- R255(a) with R240's corner M = 1: after an ENCODE, one flipped bit of parity slot K + j makes VERIFY report exactly that
slot invalid; RECON_CORRUPTION then restores the array when M >= 2, and refuses (0x09) when M = 1. -/
def Obligations.OneParityBitFlipIsDetectedAndRepaired : Prop :=
  ∀ (s t : State) (d : Mat) (j : Nat) (index bitpos : Word), s.Configured → s.params.legal = true → HoldsCode s d →
    j < s.cfgM → index.toNat = s.cfgK + j → bitpos.toNat < 8 * s.cfgShardLen →
    exec (.bitFlip index bitpos) s = .next t →
      exec .verify t = .next (answered t (0x00 :: BitVec.ofNat 32 s.cfgM :: BitVec.ofNat 32 s.cfgShardLen ::
        pack (((List.range s.cfgM).map fun j' => if j' = j then 0x00 else 0x01) ++
          ((List.range s.cfgM).map fun j' => codeRow s d s.cfgShardLen (s.cfgK + j')).flatten))) ∧
      (2 ≤ s.cfgM → ∃ u, exec .reconCorruption t = .next u ∧ u.responses = t.responses ++ [[0x00]] ∧ u.slots = s.slots) ∧
      (s.cfgM = 1 → exec .reconCorruption t = .next (gaveUp t 0x09))

/-- R255(b): after an ENCODE, one flipped bit of data slot c changes the recomputed parity row j, in that byte and no other,
by `gmul(EM[K+j][c], delta)`, which is not 0x00; so VERIFY reports every parity slot invalid, and RECON_CORRUPTION fails
with DataCorruptionUnrecoverable (0x09) and changes nothing. -/
def Obligations.OneDataBitFlipIsUnrecoverable : Prop :=
  ∀ (s t : State) (d : Mat) (c : Nat) (index bitpos : Word), s.Configured → s.params.legal = true → HoldsCode s d →
    c < s.cfgK → index.toNat = c → bitpos.toNat < 8 * s.cfgShardLen → exec (.bitFlip index bitpos) s = .next t →
      (∀ j < s.cfgM, gmul s.params.gfPoly (entry s.em (s.cfgK + j) c) (0x01 <<< (bitpos.toNat % 8)) ≠ 0x00 ∧
        ∀ n, (parityRow t j).getD n 0x00 = (codeRow s d s.cfgShardLen (s.cfgK + j)).getD n 0x00 ^^^
          if n = bitpos.toNat / 8 then gmul s.params.gfPoly (entry s.em (s.cfgK + j) c) (0x01 <<< (bitpos.toNat % 8))
          else 0x00) ∧
      exec .verify t = .next (answered t (0x00 :: BitVec.ofNat 32 s.cfgM :: BitVec.ofNat 32 s.cfgShardLen ::
        pack (List.replicate s.cfgM 0x00 ++ ((List.range s.cfgM).map (parityRow t)).flatten))) ∧
      exec .reconCorruption t = .next (gaveUp t 0x09)
end

