-- ==== Sys2Proof/Laws/Decode.lean ====
section
/-! SUPPORT. Lengths and inverses of the packing functions, and the opcode map read both ways. -/

namespace Sys2Proof

open Sys2Proof.Machine

namespace Machine

@[simp] theorem wordBytes_length (w : Word) : (wordBytes w).length = 4 := rfl

@[simp] theorem unpack_nil : unpack [] = [] := rfl

@[simp] theorem unpack_cons (w : Word) (ws : List Word) : unpack (w :: ws) = wordBytes w ++ unpack ws := rfl

@[simp] theorem unpack_length (ws : List Word) : (unpack ws).length = 4 * ws.length := by
  induction ws with
  | nil => rfl
  | cons w ws ih => simp [ih]; omega

/-- A payload of P bytes takes ceil(P/4) words (R73). -/
theorem pack_length (bytes : List Byte) : (pack bytes).length = wordsFor bytes.length := by
  induction bytes using pack.induct with
  | case1 => rfl
  | case2 => simp [pack, wordsFor]
  | case3 => simp [pack, wordsFor]
  | case4 => simp [pack, wordsFor]
  | case5 b0 b1 b2 b3 rest ih => simp [pack, ih, wordsFor]; omega

/-- A word's bytes are the bytes it was made of. -/
theorem wordBytes_wordOf (b0 b1 b2 b3 : Byte) : wordBytes (wordOf b0 b1 b2 b3) = [b0, b1, b2, b3] := by
  simp only [wordBytes, wordByte, wordOf, zext32, List.cons.injEq, and_true]
  refine ⟨?_, ?_, ?_, ?_⟩ <;> · ext k hk; interval_cases k <;> simp

/-- Unpacking the packed bytes gives them back, then zero padding. -/
theorem unpack_pack (bytes : List Byte) :
    unpack (pack bytes) = bytes ++ List.replicate (4 * wordsFor bytes.length - bytes.length) 0x00 := by
  induction bytes using pack.induct with
  | case1 => rfl
  | case2 b0 => simp [pack, wordBytes_wordOf, wordsFor]
  | case3 b0 b1 => simp [pack, wordBytes_wordOf, wordsFor]
  | case4 b0 b1 b2 => simp [pack, wordBytes_wordOf, wordsFor]
  | case5 b0 b1 b2 b3 rest ih =>
    have h : 4 * wordsFor (rest.length + 4) - (rest.length + 4) = 4 * wordsFor rest.length - rest.length := by
      simp only [wordsFor]; omega
    simp [pack, wordBytes_wordOf, ih, h]

end Machine

/-- Every assigned code names its command. -/
@[simp] theorem Opcode.ofCode?_code (op : Opcode) : Opcode.ofCode? op.code = some op := by cases op <;> decide

/-- A code that names a command is that command's code. -/
theorem Opcode.code_of_ofCode? {c : Byte} {op : Opcode} (h : Opcode.ofCode? c = some op) : op.code = c := by
  simpa using List.find?_some h

@[simp] theorem headerOpc_headerWord (op : Opcode) : headerOpc (headerWord op) = op.code := by cases op <;> decide

@[simp] theorem headerRsv_headerWord (op : Opcode) : headerRsv (headerWord op) = 0 := by cases op <;> decide

/-! The header words of R78, as numbers. -/

@[simp] theorem headerWord_gfAdd : headerWord .gfAdd = 0x01000000 := by decide
@[simp] theorem headerWord_gfMul : headerWord .gfMul = 0x02000000 := by decide
@[simp] theorem headerWord_gfDiv : headerWord .gfDiv = 0x03000000 := by decide
@[simp] theorem headerWord_gfExp : headerWord .gfExp = 0x04000000 := by decide
@[simp] theorem headerWord_gfLog : headerWord .gfLog = 0x05000000 := by decide
@[simp] theorem headerWord_matBuild : headerWord .matBuild = 0x10000000 := by decide
@[simp] theorem headerWord_matMul : headerWord .matMul = 0x11000000 := by decide
@[simp] theorem headerWord_matInv : headerWord .matInv = 0x12000000 := by decide
@[simp] theorem headerWord_vdmBuild : headerWord .vdmBuild = 0x20000000 := by decide
@[simp] theorem headerWord_raidConfig : headerWord .raidConfig = 0x30000000 := by decide
@[simp] theorem headerWord_encode : headerWord .encode = 0x31000000 := by decide
@[simp] theorem headerWord_dropShard : headerWord .dropShard = 0x32000000 := by decide
@[simp] theorem headerWord_bitFlip : headerWord .bitFlip = 0x33000000 := by decide
@[simp] theorem headerWord_detect : headerWord .detect = 0x34000000 := by decide
@[simp] theorem headerWord_verify : headerWord .verify = 0x35000000 := by decide
@[simp] theorem headerWord_reconCorruption : headerWord .reconCorruption = 0x36000000 := by decide
@[simp] theorem headerWord_reconData : headerWord .reconData = 0x37000000 := by decide
@[simp] theorem headerWord_reconDisk : headerWord .reconDisk = 0x38000000 := by decide
@[simp] theorem headerWord_readShard : headerWord .readShard = 0x39000000 := by decide

end Sys2Proof
end

