-- ==== Sys2Proof/Laws/Linear.lean ====
section
/-! SUPPORT. Shapes and entries of the matrix functions, one lemma per function. -/

namespace Sys2Proof.Machine

variable {poly : BitVec 9}

@[simp] theorem xorAll_nil : xorAll [] = 0x00 := rfl
@[simp] theorem xorAll_cons (a : Byte) (l : List Byte) : xorAll (a :: l) = gadd a (xorAll l) := rfl

/-! matmul. -/

@[simp] theorem matmul_length (a b : Mat) (len : Nat) : (matmul poly a b len).length = a.length := by simp [matmul]

theorem matmul_row_length (a b : Mat) (len : Nat) {row : Buffer} (h : row ∈ matmul poly a b len) : row.length = len := by
  simp only [matmul, List.mem_map] at h
  obtain ⟨r, _, rfl⟩ := h
  simp

/-- Row i of a product (R142). -/
theorem matRow_matmul (a b : Mat) (len i : Nat) (h : i < a.length) :
    matRow (matmul poly a b len) i = (List.range len).map fun j => dot poly (matRow a i) (matCol b j) := by
  simp [matRow, matmul, List.getD_eq_getElem?_getD, h]

/-- Entry (i, j) of a product (R142). -/
theorem entry_matmul (a b : Mat) (len i j : Nat) (hi : i < a.length) (hj : j < len) :
    entry (matmul poly a b len) i j = dot poly (matRow a i) (matCol b j) := by
  change (matRow (matmul poly a b len) i).getD j 0x00 = _
  rw [matRow_matmul _ _ _ _ hi]
  simp [List.getD_eq_getElem?_getD, hj]

theorem matRow_matmul_length (a b : Mat) (len i : Nat) (h : i < a.length) :
    (matRow (matmul poly a b len) i).length = len := by
  rw [matRow_matmul _ _ _ _ h]; simp

/-! ginvert. -/

@[simp] theorem augment_length (n : Nat) (a : Mat) : (augment n a).length = n := by simp [augment]

@[simp] theorem swapRows_length (w : Mat) (r c : Nat) : (swapRows w r c).length = w.length := by simp [swapRows]

@[simp] theorem eliminate_length (w : Mat) (c : Nat) : (eliminate poly w c).length = w.length := by simp [eliminate]

theorem gaussStep_length {mode : PivotMode} {n c : Nat} {w w' : Mat} (h : gaussStep poly mode n w c = some w') :
    w'.length = w.length := by
  unfold gaussStep at h
  split at h
  · cases h
  · cases h
    split <;> simp

theorem gaussFrom_length {mode : PivotMode} {n count c : Nat} {w w' : Mat}
    (h : gaussFrom poly mode n count c w = some w') : w'.length = w.length := by
  induction count generalizing c w with
  | zero => cases h; rfl
  | succ count ih =>
    unfold gaussFrom at h
    split at h
    · cases h
    · next w1 h1 => rw [ih h, gaussStep_length h1]

/-- The inverse has as many rows as the matrix. -/
theorem ginvert_length {mode : PivotMode} {n : Nat} {a x : Mat} (h : ginvert poly mode n a = some x) : x.length = n := by
  unfold ginvert at h
  split at h
  · cases h
  · next w hw => cases h; simp [gaussFrom_length hw]

/-! VDM. -/

@[simp] theorem vandermonde_length (rows cols : Nat) : (vandermonde poly rows cols).length = rows := by simp [vandermonde]

@[simp] theorem scaleColumn_length (r : Nat) (p : Byte) (m : Mat) : (scaleColumn poly r p m).length = m.length := by
  simp [scaleColumn]

@[simp] theorem clearColumn_length (r : Nat) (m : Mat) (c1 : Nat) : (clearColumn poly r m c1).length = m.length := by
  unfold clearColumn; dsimp only; split <;> simp

theorem foldl_length (f : Mat → Nat → Mat) (hf : ∀ m c, (f m c).length = m.length) (l : List Nat) (m : Mat) :
    (l.foldl f m).length = m.length := by
  induction l generalizing m with
  | nil => rfl
  | cons c l ih => rw [List.foldl_cons, ih, hf]

@[simp] theorem vdmStep_length (cols : Nat) (m : Mat) (r : Nat) : (vdmStep poly cols m r).length = m.length := by
  unfold vdmStep
  rw [foldl_length _ fun m c => clearColumn_length r m c, scaleColumn_length]

/-- EM has T rows. -/
@[simp] theorem vdm_length (rows cols : Nat) : (vdm poly rows cols).length = rows := by
  unfold vdm
  rw [foldl_length _ fun m r => vdmStep_length cols m r, vandermonde_length]

end Sys2Proof.Machine
end

