-- ==== Sys2Proof/Laws/State.lean ====
section
/-! SUPPORT. One lemma per field per update of the state, true by rfl, so that no proof unfolds a record update. -/

namespace Sys2Proof.Machine

namespace State

variable (s : State) (r : Frame) (i : Nat) (v : Slot) (k m cap : Nat) (rest : List HostEvent)

@[simp] theorem respond_params : (s.respond r).params = s.params := rfl
@[simp] theorem respond_cfgValid : (s.respond r).cfgValid = s.cfgValid := rfl
@[simp] theorem respond_cfgK : (s.respond r).cfgK = s.cfgK := rfl
@[simp] theorem respond_cfgM : (s.respond r).cfgM = s.cfgM := rfl
@[simp] theorem respond_cfgCap : (s.respond r).cfgCap = s.cfgCap := rfl
@[simp] theorem respond_cfgShardLen : (s.respond r).cfgShardLen = s.cfgShardLen := rfl
@[simp] theorem respond_em : (s.respond r).em = s.em := rfl
@[simp] theorem respond_slots : (s.respond r).slots = s.slots := rfl
@[simp] theorem respond_engineState : (s.respond r).engineState = s.engineState := rfl
@[simp] theorem respond_port : (s.respond r).port = s.port := rfl
@[simp] theorem respond_responses : (s.respond r).responses = s.responses ++ [r] := rfl

@[simp] theorem slotWrite_params : (s.slotWrite i v).params = s.params := rfl
@[simp] theorem slotWrite_cfgValid : (s.slotWrite i v).cfgValid = s.cfgValid := rfl
@[simp] theorem slotWrite_cfgK : (s.slotWrite i v).cfgK = s.cfgK := rfl
@[simp] theorem slotWrite_cfgM : (s.slotWrite i v).cfgM = s.cfgM := rfl
@[simp] theorem slotWrite_cfgCap : (s.slotWrite i v).cfgCap = s.cfgCap := rfl
@[simp] theorem slotWrite_cfgShardLen : (s.slotWrite i v).cfgShardLen = s.cfgShardLen := rfl
@[simp] theorem slotWrite_em : (s.slotWrite i v).em = s.em := rfl
@[simp] theorem slotWrite_slots : (s.slotWrite i v).slots = s.slots.set i v := rfl
@[simp] theorem slotWrite_engineState : (s.slotWrite i v).engineState = s.engineState := rfl
@[simp] theorem slotWrite_port : (s.slotWrite i v).port = s.port := rfl
@[simp] theorem slotWrite_responses : (s.slotWrite i v).responses = s.responses := rfl

@[simp] theorem configure_params : (s.configure k m cap).params = s.params := rfl
@[simp] theorem configure_cfgValid : (s.configure k m cap).cfgValid = true := rfl
@[simp] theorem configure_cfgK : (s.configure k m cap).cfgK = k := rfl
@[simp] theorem configure_cfgM : (s.configure k m cap).cfgM = m := rfl
@[simp] theorem configure_cfgCap : (s.configure k m cap).cfgCap = cap := rfl
@[simp] theorem configure_cfgShardLen : (s.configure k m cap).cfgShardLen = 0 := rfl
@[simp] theorem configure_em : (s.configure k m cap).em = vdm s.params.gfPoly (k + m) k := rfl
@[simp] theorem configure_slots : (s.configure k m cap).slots = List.replicate (k + m) .absent := rfl
@[simp] theorem configure_engineState : (s.configure k m cap).engineState = .empty := rfl
@[simp] theorem configure_port : (s.configure k m cap).port = s.port := rfl
@[simp] theorem configure_responses : (s.configure k m cap).responses = s.responses := rfl

@[simp] theorem applyReset_params : (s.applyReset rest).params = s.params := rfl
@[simp] theorem applyReset_cfgValid : (s.applyReset rest).cfgValid = false := rfl
@[simp] theorem applyReset_cfgK : (s.applyReset rest).cfgK = 0 := rfl
@[simp] theorem applyReset_cfgM : (s.applyReset rest).cfgM = 0 := rfl
@[simp] theorem applyReset_cfgCap : (s.applyReset rest).cfgCap = 0 := rfl
@[simp] theorem applyReset_cfgShardLen : (s.applyReset rest).cfgShardLen = 0 := rfl
@[simp] theorem applyReset_slots : (s.applyReset rest).slots = [] := rfl
@[simp] theorem applyReset_engineState : (s.applyReset rest).engineState = .unconfigured := rfl
@[simp] theorem applyReset_port : (s.applyReset rest).port = rest := rfl
@[simp] theorem applyReset_responses : (s.applyReset rest).responses = [] := rfl

end State

/-- Two states that agree on every field but the disk array. -/
def SameButSlots (s t : State) : Prop := t = { s with slots := t.slots }

theorem SameButSlots.rfl' (s : State) : SameButSlots s s := rfl

theorem SameButSlots.trans {s t u : State} (h : SameButSlots s t) (h' : SameButSlots t u) : SameButSlots s u := by
  unfold SameButSlots at *
  rw [h'] ; rw [h]

theorem SameButSlots.slotWrite {s t : State} (h : SameButSlots s t) (i : Nat) (v : Slot) :
    SameButSlots s (t.slotWrite i v) := by
  unfold SameButSlots at *
  rw [h] ; rfl

end Sys2Proof.Machine
end

