-- ==== Sys2Proof/Laws/Ops.lean ====
section
/-! SUPPORT. What each shared operation over the disk array and the response port can do, said once. -/

namespace Sys2Proof.Machine

variable {s t : State}

/-! The status words of R90, as numbers. -/

@[simp] theorem statusWord_ok : statusWord .ok = 0x00 := by decide
@[simp] theorem statusWord_invalidConfiguration : statusWord .invalidConfiguration = 0x01 := by decide
@[simp] theorem statusWord_invalidDimensions : statusWord .invalidDimensions = 0x02 := by decide
@[simp] theorem statusWord_dimensionMismatch : statusWord .dimensionMismatch = 0x03 := by decide
@[simp] theorem statusWord_divisionByZero : statusWord .divisionByZero = 0x04 := by decide
@[simp] theorem statusWord_singularMatrix : statusWord .singularMatrix = 0x05 := by decide
@[simp] theorem statusWord_invalidShardIndex : statusWord .invalidShardIndex = 0x06 := by decide
@[simp] theorem statusWord_invalidBitPosition : statusWord .invalidBitPosition = 0x07 := by decide
@[simp] theorem statusWord_targetShardAbsent : statusWord .targetShardAbsent = 0x08 := by decide
@[simp] theorem statusWord_dataCorruptionUnrecoverable : statusWord .dataCorruptionUnrecoverable = 0x09 := by decide
@[simp] theorem statusWord_insufficientShards : statusWord .insufficientShards = 0x0A := by decide
@[simp] theorem statusWord_invalidReconstructionState : statusWord .invalidReconstructionState = 0x0B := by decide
@[simp] theorem statusWord_logOfZero : statusWord .logOfZero = 0x0C := by decide
@[simp] theorem statusWord_illegalCommand : statusWord .illegalCommand = 0x0D := by decide

/-- A status other than OK has a nonzero status word. -/
theorem statusWord_ne_zero {st : Status} (h : st ≠ .ok) : statusWord st ≠ 0x00 := by
  cases st <;> first | exact absurd rfl h | simp

/-- Every status word is a code of R90. -/
theorem statusWord_le (st : Status) : (statusWord st).toNat ≤ 0x0D := by cases st <;> decide

/-- An error that does not move ENGINE_STATE adds its status word to the responses and changes nothing else. -/
theorem raise_eq_of_plain (s : State) {st : Status} (h1 : st ≠ .insufficientShards)
    (h2 : st ≠ .dataCorruptionUnrecoverable) : raise st s = .next (s.respond [statusWord st]) := by
  cases st <;> first | exact absurd rfl h1 | exact absurd rfl h2 | rfl

/-! Ending a command. -/

theorem complete_eq (words : List Word) (payload : List Byte) (s : State) :
    complete words payload s = .next (s.respond (okResponse words payload)) := rfl

theorem raise_eq (st : Status) (s : State) :
    raise st s = .next { s.respond (errorResponse st) with engineState := s.engineState.afterError st } := rfl

theorem complete_arch (words : List Word) (payload : List Byte) (h : complete words payload s = .next t) :
    t.arch = s.arch := by
  cases h; rfl

theorem raise_arch (st : Status) (h : raise st s = .next t) : t.arch = s.arch := by
  cases h; rfl

theorem requireConfigured_of_valid (body : Result) (h : s.cfgValid = true) : requireConfigured s body = body := by
  simp [requireConfigured, h]

theorem requireConfigured_of_invalid (body : Result) (h : s.cfgValid = false) :
    requireConfigured s body = raise .invalidConfiguration s := by
  simp [requireConfigured, h]

/-- An engine command either finds the block unconfigured and fails, or runs its body on a configured block. -/
theorem requireConfigured_cases (body : Result) :
    (s.cfgValid = false ∧ requireConfigured s body = raise .invalidConfiguration s) ∨
      (s.cfgValid = true ∧ requireConfigured s body = body) := by
  cases h : s.cfgValid <;> simp [requireConfigured, h]

/-! Reading and writing slots. -/

theorem slotRead_slotWrite_same (i : Nat) (v : Slot) (h : i < s.slots.length) : (s.slotWrite i v).slotRead i = v := by
  simp [State.slotRead, List.getD_eq_getElem?_getD, h]

theorem slotRead_slotWrite_other (i j : Nat) (v : Slot) (h : i ≠ j) : (s.slotWrite i v).slotRead j = s.slotRead j := by
  simp [State.slotRead, List.getD_eq_getElem?_getD, h]

/-- Reading slot j after a write of slot i. -/
theorem slotRead_slotWrite (i j : Nat) (v : Slot) :
    (s.slotWrite i v).slotRead j = if i = j ∧ j < s.slots.length then v else s.slotRead j := by
  by_cases h : i = j
  · subst h
    by_cases h' : i < s.slots.length
    · simp [h', slotRead_slotWrite_same]
    · simp [h', State.slotRead, List.getD_eq_getElem?_getD]
  · simp [h, slotRead_slotWrite_other]

theorem isPresent_iff (i : Nat) : s.isPresent i = true ↔ ∃ buf, s.slotRead i = .present buf := by
  unfold State.isPresent
  cases s.slotRead i <;> simp

theorem isPresent_eq_false_iff (i : Nat) : s.isPresent i = false ↔ s.slotRead i = .absent := by
  unfold State.isPresent
  cases s.slotRead i <;> simp

theorem slotRead_of_isPresent {i : Nat} (h : s.isPresent i = true) : s.slotRead i = .present (s.buf i) := by
  obtain ⟨buf, hb⟩ := (isPresent_iff i).mp h
  simp [State.buf, hb, Slot.bytes]

theorem lt_length_of_isPresent {i : Nat} (h : s.isPresent i = true) : i < s.slots.length := by
  by_contra hlt
  obtain ⟨buf, hb⟩ := (isPresent_iff i).mp h
  simp [State.slotRead, List.getD_eq_getElem?_getD, Nat.le_of_not_lt hlt] at hb

/-! Writing a run of rows. -/

theorem writeRows_nil (base : Nat) : s.writeRows base [] = s := rfl

theorem writeRows_cons (base : Nat) (row : Buffer) (rows : Mat) :
    s.writeRows base (row :: rows) = (s.slotWrite base (.present row)).writeRows (base + 1) rows := by
  simp [State.writeRows, List.zipIdx_cons]

theorem writeRows_sameButSlots (base : Nat) (rows : Mat) (s : State) : SameButSlots s (s.writeRows base rows) := by
  induction rows generalizing base s with
  | nil => exact SameButSlots.rfl' s
  | cons row rows ih =>
    rw [writeRows_cons]
    exact ((SameButSlots.rfl' s).slotWrite base _).trans (ih _ _)

theorem writeRows_slots_length (base : Nat) (rows : Mat) (s : State) :
    (s.writeRows base rows).slots.length = s.slots.length := by
  induction rows generalizing base s with
  | nil => rfl
  | cons row rows ih => rw [writeRows_cons, ih]; simp

/-- What a slot holds after a run of rows is written from `base` on. -/
theorem slotRead_writeRows (base : Nat) (rows : Mat) (s : State) (j : Nat) :
    (s.writeRows base rows).slotRead j =
      if base ≤ j ∧ j < base + rows.length ∧ j < s.slots.length then .present (rows.getD (j - base) []) else s.slotRead j := by
  induction rows generalizing base s with
  | nil => simp [writeRows_nil]; omega
  | cons row rows ih =>
    rw [writeRows_cons, ih, slotRead_slotWrite]
    simp only [State.slotWrite_slots, List.length_set, List.length_cons]
    by_cases hj : base = j
    · subst hj
      have h1 : ¬ base + 1 ≤ base := by omega
      by_cases hl : base < s.slots.length <;> simp [hl]
    · by_cases hb : base + 1 ≤ j
      · have e : j - base = (j - (base + 1)) + 1 := by omega
        by_cases hl : j < base + 1 + rows.length ∧ j < s.slots.length
        · have : base ≤ j ∧ j < base + (rows.length + 1) ∧ j < s.slots.length := by omega
          simp only [hb, hl, this, and_self, ↓reduceIte, e, List.getD_cons_succ]
        · have h2 : ¬ (base ≤ j ∧ j < base + (rows.length + 1) ∧ j < s.slots.length) := by omega
          have h3 : ¬ (base + 1 ≤ j ∧ j < base + 1 + rows.length ∧ j < s.slots.length) := by omega
          simp only [if_neg h2, if_neg h3, hj, false_and, if_false]
      · have h2 : ¬ (base ≤ j ∧ j < base + (rows.length + 1) ∧ j < s.slots.length) := by omega
        have h3 : ¬ (base + 1 ≤ j ∧ j < base + 1 + rows.length ∧ j < s.slots.length) := by omega
        simp only [if_neg h2, if_neg h3, hj, false_and, if_false]

/-! The disk array's form. -/

theorem Memory.wf_iff (slots : List Slot) (total len : Nat) :
    Memory.wf slots total len = true ↔
      slots.length = total ∧ ∀ v ∈ slots, ∀ buf, v = .present buf → buf.length = len := by
  simp only [Memory.wf, Bool.and_eq_true, beq_iff_eq, List.all_eq_true, Bool.or_eq_true]
  refine and_congr_right fun _ => forall₂_congr fun v _ => ?_
  cases v <;> simp [Slot.bytes]

theorem Memory.wf_empty : Memory.wf [] 0 0 = true := rfl

theorem Memory.wf_reset : Memory.wf State.reset.slots State.reset.total State.reset.cfgShardLen = true := rfl

/-- Writing a slot keeps the form when the slot written is Absent or has the array's length. -/
theorem Memory.wf_set {slots : List Slot} {total len : Nat} (h : Memory.wf slots total len = true) (i : Nat) (v : Slot)
    (hv : ∀ buf, v = .present buf → buf.length = len) : Memory.wf (slots.set i v) total len = true := by
  rw [Memory.wf_iff] at *
  refine ⟨by simpa using h.1, fun w hw buf hb => ?_⟩
  rcases List.mem_or_eq_of_mem_set hw with hw | rfl
  · exact h.2 w hw buf hb
  · exact hv buf hb

/-- A disk array of Absent slots has the form for every length. -/
theorem Memory.wf_replicate (total len : Nat) : Memory.wf (List.replicate total .absent) total len = true := by
  rw [Memory.wf_iff]
  refine ⟨by simp, fun v hv buf hb => ?_⟩
  rw [List.eq_of_mem_replicate hv] at hb
  cases hb

theorem Memory.wf_slotWrite {total len : Nat} (h : Memory.wf s.slots total len = true) (i : Nat) (v : Slot)
    (hv : ∀ buf, v = .present buf → buf.length = len) : Memory.wf (s.slotWrite i v).slots total len = true :=
  Memory.wf_set h i v hv

theorem Memory.wf_writeRows {total len : Nat} (base : Nat) (rows : Mat) (s : State)
    (h : Memory.wf s.slots total len = true) (hr : ∀ row ∈ rows, row.length = len) :
    Memory.wf (s.writeRows base rows).slots total len = true := by
  induction rows generalizing base s with
  | nil => exact h
  | cons row rows ih =>
    rw [writeRows_cons]
    refine ih _ _ (Memory.wf_slotWrite h _ _ ?_) fun r hr' => hr r (List.mem_cons_of_mem _ hr')
    rintro buf ⟨⟩
    exact hr row List.mem_cons_self

theorem Memory.wf_repairParity {total len : Nat} (valid : List Bool) (p : Mat) (s : State)
    (h : Memory.wf s.slots total len = true) (hp : ∀ j < s.cfgM, (matRow p j).length = len) :
    Memory.wf (s.repairParity valid p).slots total len = true := by
  have key : ∀ (l : List Nat) (t : State), Memory.wf t.slots total len = true → (∀ j ∈ l, (matRow p j).length = len) →
      Memory.wf (l.foldl (fun t j => if valid.getD j true then t
        else t.slotWrite (s.cfgK + j) (.present (matRow p j))) t).slots total len = true := by
    intro l
    induction l with
    | nil => intro t ht _; exact ht
    | cons j l ih =>
      intro t ht hl
      rw [List.foldl_cons]
      refine ih _ ?_ fun j' hj' => hl j' (List.mem_cons_of_mem _ hj')
      split
      · exact ht
      · refine Memory.wf_slotWrite ht _ _ ?_
        rintro buf ⟨⟩
        exact hl j List.mem_cons_self
  exact key _ s h fun j hj => hp j (List.mem_range.mp hj)

theorem length_flipBit (p : Nat) (buf : Buffer) : (flipBit p buf).length = buf.length := by simp [flipBit]

end Sys2Proof.Machine
end

