-- ==== Sys2Proof/Laws/Exec.lean ====
section
/-! SUPPORT. What the reconstruction functions and one step can do, said once: later proofs cite these lemmas and unfold
none of the functions. -/

namespace Sys2Proof.Machine

variable {s t : State}

/-! verify (R230). -/

theorem verifyParity_cases (s : State) :
    ((∃ c < s.cfgK, s.isPresent c = false) ∧ s.verifyParity = .error .dimensionMismatch) ∨
      ((∀ c < s.cfgK, s.isPresent c = true) ∧
        s.verifyParity = .ok ((List.range s.cfgM).map s.parityValid, s.recomputedParity)) := by
  by_cases h : ∀ c < s.cfgK, s.isPresent c = true
  · right
    refine ⟨h, if_neg ?_⟩
    simpa using h
  · left
    push Not at h
    refine ⟨by simpa using h, if_pos ?_⟩
    simpa using h

/-! recon_corruption (R240). -/

theorem repairParity_sameButSlots (valid : List Bool) (p : Mat) (s : State) :
    SameButSlots s (s.repairParity valid p) := by
  have key : ∀ (l : List Nat) (t : State), SameButSlots s t →
      SameButSlots s (l.foldl (fun t j => if valid.getD j true then t
        else t.slotWrite (s.cfgK + j) (.present (matRow p j))) t) := by
    intro l
    induction l with
    | nil => intro t ht; exact ht
    | cons j l ih =>
      intro t ht
      rw [List.foldl_cons]
      refine ih _ ?_
      split
      · exact ht
      · exact ht.slotWrite _ _
  exact key _ s (SameButSlots.rfl' s)

theorem reconCorruption_cases (s : State) :
    ((∃ c < s.cfgK, s.isPresent c = false) ∧ s.reconCorruption = .error .dimensionMismatch) ∨
      ((∀ c < s.cfgK, s.isPresent c = true) ∧ (∀ j < s.cfgM, s.parityValid j = false) ∧
        s.reconCorruption = .error .dataCorruptionUnrecoverable) ∨
      ((∀ c < s.cfgK, s.isPresent c = true) ∧ (∃ j < s.cfgM, s.parityValid j = true) ∧
        s.reconCorruption = .ok (s.repairParity ((List.range s.cfgM).map s.parityValid) s.recomputedParity)) := by
  rcases verifyParity_cases s with ⟨h, hv⟩ | ⟨h, hv⟩
  · exact .inl ⟨h, by simp [State.reconCorruption, hv]⟩
  · by_cases hj : ∃ j < s.cfgM, s.parityValid j = true
    · refine .inr (.inr ⟨h, hj, ?_⟩)
      obtain ⟨j, hlt, hj⟩ := hj
      simp only [State.reconCorruption, hv]
      refine if_neg ?_
      simp only [List.all_map, List.all_eq_true, List.mem_range, Function.comp_apply]
      exact fun hall => by simpa [hj] using hall j hlt
    · refine .inr (.inl ⟨h, by simpa using hj, ?_⟩)
      simp only [State.reconCorruption, hv]
      refine if_pos ?_
      simpa using hj

/-! recon_data (R250). -/

theorem reconData_cases (mask : List Bool) (s : State) :
    (mask.length ≠ s.total ∧ s.reconData mask = .error .dimensionMismatch) ∨
      (mask.length = s.total ∧ (selectShards s.cfgK mask).length < s.cfgK ∧
        s.reconData mask = .error .insufficientShards) ∨
      (mask.length = s.total ∧ s.cfgK ≤ (selectShards s.cfgK mask).length ∧
        (∃ i ∈ selectShards s.cfgK mask, s.isPresent i = false) ∧ s.reconData mask = .error .targetShardAbsent) ∨
      (mask.length = s.total ∧ s.cfgK ≤ (selectShards s.cfgK mask).length ∧
        (∀ i ∈ selectShards s.cfgK mask, s.isPresent i = true) ∧
        ginvert s.params.gfPoly s.params.pivotMode s.cfgK ((selectShards s.cfgK mask).map (matRow s.em)) = none ∧
        s.reconData mask = .error .singularMatrix) ∨
      (mask.length = s.total ∧ s.cfgK ≤ (selectShards s.cfgK mask).length ∧
        (∀ i ∈ selectShards s.cfgK mask, s.isPresent i = true) ∧
        ∃ x, ginvert s.params.gfPoly s.params.pivotMode s.cfgK ((selectShards s.cfgK mask).map (matRow s.em)) = some x ∧
          s.reconData mask =
            .ok (s.writeRows 0 (matmul s.params.gfPoly x ((selectShards s.cfgK mask).map s.buf) s.cfgShardLen))) := by
  unfold State.reconData
  by_cases h1 : mask.length = s.total
  · by_cases h2 : (selectShards s.cfgK mask).length < s.cfgK
    · simp [h1, h2]
    · by_cases h3 : ∀ i ∈ selectShards s.cfgK mask, s.isPresent i = true
      · have h3' : ((selectShards s.cfgK mask).any fun i => !s.isPresent i) = false := by
          simpa using h3
        have h2' : s.cfgK ≤ (selectShards s.cfgK mask).length := by omega
        cases hx : ginvert s.params.gfPoly s.params.pivotMode s.cfgK ((selectShards s.cfgK mask).map (matRow s.em)) with
        | none => exact .inr (.inr (.inr (.inl ⟨h1, h2', h3, rfl, by simp [h1, h2, h3', hx]⟩)))
        | some x => exact .inr (.inr (.inr (.inr ⟨h1, h2', h3, x, rfl, by simp [h1, h2, h3', hx]⟩)))
      · have h3' : ((selectShards s.cfgK mask).any fun i => !s.isPresent i) = true := by
          simpa using h3
        exact .inr (.inr (.inl ⟨h1, by omega, by simpa using h3, by simp [h1, h2, h3']⟩))
  · exact .inl ⟨h1, by simp [h1]⟩

/-! RECON_DISK's two calls write slots only. -/

theorem reconCorruption_sameButSlots (h : s.reconCorruption = .ok t) : SameButSlots s t := by
  rcases reconCorruption_cases s with ⟨_, h'⟩ | ⟨_, _, h'⟩ | ⟨_, _, h'⟩ <;> rw [h'] at h <;> cases h
  exact repairParity_sameButSlots _ _ _

theorem reconData_sameButSlots {mask : List Bool} (h : s.reconData mask = .ok t) : SameButSlots s t := by
  rcases reconData_cases mask s with ⟨_, h'⟩ | ⟨_, _, h'⟩ | ⟨_, _, _, h'⟩ | ⟨_, _, _, _, h'⟩ | ⟨_, _, _, x, _, h'⟩ <;>
    rw [h'] at h <;> cases h
  exact writeRows_sameButSlots _ _ _

theorem reconDisk_sameButSlots (h : s.reconDisk = .ok t) : SameButSlots s t := by
  simp only [State.reconDisk] at h
  split at h
  · cases h
  split at h
  · split at h
    · cases h
    · next u hu => exact (reconData_sameButSlots hu).trans (reconCorruption_sameButSlots h)
  split at h
  · exact reconCorruption_sameButSlots h
  split at h
  · cases h; exact SameButSlots.rfl' s
  · cases h

/-- A reconstruction command ends in its error with the architectural state as it was, or OK with its writes. -/
theorem finishRecon_cases (r : Except Status State) (s : State) :
    (∃ st, r = .error st ∧ finishRecon r s = raise st s) ∨
      (∃ t, r = .ok t ∧
        finishRecon r s = complete [] [] { t with engineState := s.engineState.afterRecon t.slots }) := by
  cases r with
  | error st => exact .inl ⟨st, rfl, rfl⟩
  | ok t => exact .inr ⟨t, rfl, rfl⟩

/-! One command. -/

/-- A command ends in one of two ways: `raise` of a status that is not OK, from the state it started in, or `complete` from a
state with the same port, parameters and earlier responses. -/
def EndsWell (s : State) (r : Result) : Prop :=
  (∃ st, r = raise st s ∧ st ≠ .ok) ∨
    ∃ words payload t, r = complete words payload t ∧ t.port = s.port ∧ t.params = s.params ∧ t.responses = s.responses

/-- The ends of a reconstruction command whose function writes slots only. -/
theorem endsWell_recon (s : State) (r : Except Status State) (hok : r ≠ .error .ok)
    (h : ∀ t, r = .ok t → SameButSlots s t) : EndsWell s (requireConfigured s (finishRecon r s)) := by
  rcases requireConfigured_cases (s := s) (finishRecon r s) with ⟨h0, h1⟩ | ⟨h0, h1⟩
  · exact .inl ⟨_, h1, by simp⟩
  · rcases finishRecon_cases r s with ⟨st, hst, h2⟩ | ⟨t, ht, h2⟩
    · exact .inl ⟨st, h1.trans h2, by rintro rfl; exact hok hst⟩
    · have := h t ht
      refine .inr ⟨_, _, _, h1.trans h2, ?_⟩
      rw [this]; simp

/-- Every command of every state ends well (R260, R262). -/
theorem exec_cases (i : Instr) (s : State) : EndsWell s (exec i s) := by
  cases i
  case reconCorruption =>
    refine endsWell_recon s _ ?_ fun t ht => reconCorruption_sameButSlots ht
    rcases reconCorruption_cases s with ⟨_, h⟩ | ⟨_, _, h⟩ | ⟨_, _, h⟩ <;> rw [h] <;> simp
  case reconData mask =>
    refine endsWell_recon s _ ?_ fun t ht => reconData_sameButSlots ht
    rcases reconData_cases mask s with ⟨_, h⟩ | ⟨_, _, h⟩ | ⟨_, _, _, h⟩ | ⟨_, _, _, _, h⟩ | ⟨_, _, _, x, _, h⟩ <;> rw [h] <;> simp
  case reconDisk =>
    refine endsWell_recon s _ ?_ fun t ht => reconDisk_sameButSlots ht
    simp only [State.reconDisk]
    split; · simp
    split
    · split
      · next st h => 
        rintro h'; cases h'
        rcases reconData_cases s.presence s with ⟨_, h'⟩ | ⟨_, _, h'⟩ | ⟨_, _, _, h'⟩ | ⟨_, _, _, _, h'⟩ | ⟨_, _, _, x, _, h'⟩ <;> rw [h'] at h <;> simp at h
      · next t _ => rcases reconCorruption_cases t with ⟨_, h⟩ | ⟨_, _, h⟩ | ⟨_, _, h⟩ <;> rw [h] <;> simp
    split
    · rcases reconCorruption_cases s with ⟨_, h⟩ | ⟨_, _, h⟩ | ⟨_, _, h⟩ <;> rw [h] <;> simp
    split <;> simp
  all_goals
    simp only [exec, execGfAdd, execGfMul, execGfDiv, execGfExp, execGfLog, execMatBuild, execMatMul, execMatInv, execVdmBuild, execRaidConfig, execEncode, execDropShard, execBitFlip, execDetect, execVerify, execReadShard, requireConfigured, State.verifyParity]
    repeat' split
  all_goals first
    | (refine .inl ⟨_, rfl, ?_⟩; simp; done)
    | (refine .inr ⟨_, _, _, rfl, ?_⟩; simp [State.encodeShards, State.configure]; done)
    | skip
  · have := writeRows_sameButSlots 0 (matmul s.params.gfPoly s.em ‹_› (firstLength ‹_›)) s
    refine .inr ⟨_, _, _, rfl, ?_⟩; simp [State.encodeShards]; rw [this]; simp
  · next h => split at h <;> cases h; exact .inl ⟨_, rfl, by simp⟩

/-! One step. -/

theorem step_idle (h : s.port = []) : step s = .next s := by simp [step, h]

theorem step_reset {rest : List HostEvent} (h : s.port = .reset :: rest) : step s = .next (s.applyReset rest) := by
  simp [step, h]

theorem step_cutFrame {ws : Frame} {rest : List HostEvent} (h : s.port = .cutFrame ws :: rest) :
    step s = .next (s.applyReset rest) := by
  simp [step, h]

theorem step_illegal {ws : Frame} {rest : List HostEvent} {e : DecodeError} (h : s.port = .frame ws :: rest)
    (hd : decode ws = .error e) : step s = raise .illegalCommand { s with port := rest } := by
  simp [step, h, hd]

theorem step_command {ws : Frame} {rest : List HostEvent} {i : Instr} (h : s.port = .frame ws :: rest)
    (hd : decode ws = .ok i) : step s = exec i { s with port := rest } := by
  simp [step, h, hd]

/-- Everything a step can be. -/
theorem step_cases (s : State) :
    (s.port = [] ∧ step s = .next s) ∨
      (∃ rest, (s.port = .reset :: rest ∨ ∃ ws, s.port = .cutFrame ws :: rest) ∧ step s = .next (s.applyReset rest)) ∨
      (∃ ws rest e, s.port = .frame ws :: rest ∧ decode ws = .error e ∧
        step s = raise .illegalCommand { s with port := rest }) ∨
      (∃ ws rest i, s.port = .frame ws :: rest ∧ decode ws = .ok i ∧ step s = exec i { s with port := rest }) := by
  match h : s.port with
  | [] => exact .inl ⟨rfl, step_idle h⟩
  | .reset :: rest => exact .inr (.inl ⟨rest, .inl rfl, step_reset h⟩)
  | .cutFrame ws :: rest => exact .inr (.inl ⟨rest, .inr ⟨ws, rfl⟩, step_cutFrame h⟩)
  | .frame ws :: rest =>
    cases hd : decode ws with
    | error e => exact .inr (.inr (.inl ⟨ws, rest, e, rfl, hd, step_illegal h hd⟩))
    | ok i => exact .inr (.inr (.inr ⟨ws, rest, i, rfl, hd, step_command h hd⟩))

end Sys2Proof.Machine
end

