-- ==== Sys2Proof/Laws/PerInstr.lean ====
section
/-! SUPPORT. Statements made once per command, about the command as syntax. Family `Header`: word 0 of a command's frame
names the command and leaves the reserved bits 0 (spec/30_encoding.md R71, R78). -/

namespace Sys2Proof.Laws.Header

open Sys2Proof

/-- The frame of `i` begins with a header word whose OPC is the command's and whose RSV is 0. -/
def Statement (i : Instr) : Prop :=
  ∃ h rest, encode i = h :: rest ∧ Opcode.ofCode? (headerOpc h) = some i.opcode ∧ headerRsv h = 0

/-- One proof for every command, by its opcode. -/
theorem of_opcode (i : Instr) : Statement i :=
  ⟨headerWord i.opcode, i.args ++ Machine.pack i.payload, rfl, by simp, by simp⟩

theorem gfAdd (a b : Byte) : Statement (.gfAdd a b) := of_opcode _
theorem gfMul (a b : Byte) : Statement (.gfMul a b) := of_opcode _
theorem gfDiv (a b : Byte) : Statement (.gfDiv a b) := of_opcode _
theorem gfExp (base : Byte) (power : Word) : Statement (.gfExp base power) := of_opcode _
theorem gfLog (a : Byte) : Statement (.gfLog a) := of_opcode _
theorem matBuild (rows cols : Word) : Statement (.matBuild rows cols) := of_opcode _
theorem matMul (m n : Word) (a : List Byte) (bufs : List Buffer) : Statement (.matMul m n a bufs) := of_opcode _
theorem matInv (rows cols : Word) (a : List Byte) : Statement (.matInv rows cols a) := of_opcode _
theorem vdmBuild (rows cols : Word) : Statement (.vdmBuild rows cols) := of_opcode _
theorem raidConfig (k m cap : Word) : Statement (.raidConfig k m cap) := of_opcode _
theorem encode (bufs : List Buffer) : Statement (.encode bufs) := of_opcode _
theorem dropShard (index : Word) : Statement (.dropShard index) := of_opcode _
theorem bitFlip (index bitpos : Word) : Statement (.bitFlip index bitpos) := of_opcode _
theorem detect : Statement .detect := of_opcode _
theorem verify : Statement .verify := of_opcode _
theorem reconCorruption : Statement .reconCorruption := of_opcode _
theorem reconData (mask : List Bool) : Statement (.reconData mask) := of_opcode _
theorem reconDisk : Statement .reconDisk := of_opcode _
theorem readShard (index : Word) : Statement (.readShard index) := of_opcode _

end Sys2Proof.Laws.Header
end

