-- ==== Sys2Proof/Tests/Slice0.lean ====
section
/-! SUPPORT. The model's own tests: ill-formed terms the check refuses, one frame a command written out from the spec's
encoding, at most two steps a command with the expected response taken from spec/95_test_vectors.md or computed by hand from
the rule named, and for every statement with hypotheses a witness that meets them. -/

namespace Sys2Proof.Tests

open Sys2Proof.Machine Sys2Proof.Claims

set_option maxRecDepth 100000

/-! Helpers. -/

/-- The state an outcome gives, if it is a next state. -/
def stateOf? (r : Result) : Option State :=
  match r with
  | .next t => some t
  | .fault _ => none
  | .refused _ => none

theorem next_of_stateOf? {r : Result} {t : State} (h : stateOf? r = some t) : r = .next t := by
  cases r <;> simp_all [stateOf?]

theorem exists_next {r : Result} {p : State → Prop} (h : ∃ t, stateOf? r = some t ∧ p t) : ∃ t, r = .next t ∧ p t :=
  h.imp fun _ ht => ⟨next_of_stateOf? ht.1, ht.2⟩

/-- A next state with a decided property. -/
theorem exists_next_of_any {r : Result} {p : State → Bool} (h : (stateOf? r).any p = true) :
    ∃ t, r = .next t ∧ p t = true := by
  cases r <;> simp_all [stateOf?]

/-- The spec's default parameters with small limits. -/
def demoParams : Params :=
  { gfPoly := 0x11D, gfGen := 0x02, pivotMode := .partialPivot, maxDim := 4, maxLen := 16 }

/-- The same in pivot mode `none`. -/
def demoParamsNoPivot : Params := { demoParams with pivotMode := .noPivot }

theorem demoParams_legal : demoParams.legal = true := by decide

theorem demoParamsNoPivot_legal : demoParamsNoPivot.legal = true := by decide

/-- An unconfigured block. -/
def fresh : State := State.powerOn demoParams

/-- K = 2, M = 2, CAP = 8 with L = 2: the block of spec/95 section 2.4 after `ENCODE [01 02], [03 04]`, some slots given. -/
def raidWith (slots : List Slot) : State :=
  { fresh with
    cfgValid := true, cfgK := 2, cfgM := 2, cfgCap := 8, cfgShardLen := 2, em := vdm 0x11D 4 2
    slots := slots, engineState := .encoded }

def d0 : Slot := .present [0x01, 0x02]
def d1 : Slot := .present [0x03, 0x04]
def p0 : Slot := .present [0x05, 0x0E]
def p1 : Slot := .present [0x07, 0x08]

/-- Every slot as encoded. -/
def raid : State := raidWith [d0, d1, p0, p1]

/-- Data slot 0 and parity slot 1 dropped. -/
def raidDropped : State := raidWith [.absent, d1, p0, .absent]

/-- Both parity slots dropped. -/
def raidNoParity : State := raidWith [d0, d1, .absent, .absent]

/-- K = 2, M = 1: `ENCODE [01 02], [03 04]`. -/
def raidOneParity : State :=
  { raidWith [d0, d1, p0] with cfgM := 1, em := vdm 0x11D 3 2 }

/-- The state after one frame. -/
def after (s : State) (ws : Frame) : Option State := stateOf? (step { s with port := [.frame ws] })

/-- The response to one frame. -/
def answer (s : State) (ws : Frame) : Option (List Frame) := (after s ws).map (·.responses)

/-! Ill-formed terms the check refuses. -/

theorem test_wellFormed_matMul_matrix : (Instr.matMul 2 2 [0x01] []).wellFormed = false := by decide

theorem test_wellFormed_matInv_matrix : (Instr.matInv 2 2 [0x01, 0x02, 0x03]).wellFormed = false := by decide

theorem test_wellFormed_encode_count (n : Nat) (h : 4294967296 ≤ n) :
    (Instr.encode (List.replicate n [])).wellFormed = false := by
  simp [Instr.wellFormed, buffersFit, fitsWord, List.length_replicate, h]

theorem test_wellFormed_encode_length (n : Nat) (h : 4294967296 ≤ n) :
    (Instr.encode [List.replicate n 0x00]).wellFormed = false := by
  simp [Instr.wellFormed, buffersFit, fitsWord, List.length_replicate, h]

theorem test_wellFormed_matMul_count (n : Nat) (h : 4294967296 ≤ n) :
    (Instr.matMul 0 0 [] (List.replicate n [])).wellFormed = false := by
  simp [Instr.wellFormed, buffersFit, fitsWord, List.length_replicate, h]

theorem test_wellFormed_reconData_length (n : Nat) (h : 4294967296 ≤ n) :
    (Instr.reconData (List.replicate n true)).wellFormed = false := by
  simp [Instr.wellFormed, fitsWord, List.length_replicate, h]

/-! One frame a command, its words written out from R71 to R78. -/

theorem test_decode_gfAdd : decode [0x01000000, 0x53, 0xCA] = .ok (.gfAdd 0x53 0xCA) := by rfl
theorem test_decode_gfMul : decode [0x02000000, 0x02, 0x80] = .ok (.gfMul 0x02 0x80) := by rfl
theorem test_decode_gfDiv : decode [0x03000000, 0x05, 0x00] = .ok (.gfDiv 0x05 0x00) := by rfl
theorem test_decode_gfExp : decode [0x04000000, 0xFF, 0x80000001] = .ok (.gfExp 0xFF 0x80000001) := by rfl
theorem test_decode_gfLog : decode [0x05000000, 0x1D] = .ok (.gfLog 0x1D) := by rfl
theorem test_decode_matBuild : decode [0x10000000, 2, 3] = .ok (.matBuild 2 3) := by rfl
theorem test_decode_matMul :
    decode [0x11000000, 1, 2, 2, 1, 2, 0x03020100, 0x00000004] = .ok (.matMul 1 2 [0, 1] [[2], [3, 4]]) := by rfl
theorem test_decode_matInv : decode [0x12000000, 2, 2, 0x02030001] = .ok (.matInv 2 2 [1, 0, 3, 2]) := by rfl
theorem test_decode_vdmBuild : decode [0x20000000, 5, 3] = .ok (.vdmBuild 5 3) := by rfl
theorem test_decode_raidConfig : decode [0x30000000, 5, 4, 64] = .ok (.raidConfig 5 4 64) := by rfl
theorem test_decode_encode :
    decode [0x31000000, 2, 2, 3, 0x04030201, 0x00000005] = .ok (.encode [[1, 2], [3, 4, 5]]) := by rfl
theorem test_decode_dropShard : decode [0x32000000, 7] = .ok (.dropShard 7) := by rfl
theorem test_decode_bitFlip : decode [0x33000000, 6, 1] = .ok (.bitFlip 6 1) := by rfl
theorem test_decode_detect : decode [0x34000000] = .ok .detect := by rfl
theorem test_decode_verify : decode [0x35000000] = .ok .verify := by rfl
theorem test_decode_reconCorruption : decode [0x36000000] = .ok .reconCorruption := by rfl
theorem test_decode_reconData :
    decode [0x37000000, 5, 0x01000100, 0x00000001] = .ok (.reconData [false, true, false, true, true]) := by rfl
theorem test_decode_reconDisk : decode [0x38000000] = .ok .reconDisk := by rfl
theorem test_decode_readShard : decode [0x39000000, 4] = .ok (.readShard 4) := by rfl

/-! Refused frames (spec/95 sections 2.1, 2.2, 2.4), by the name of what is wrong. -/

theorem test_decode_empty : decode [] = .error .emptyFrame := by rfl
theorem test_decode_reserved_opcode : decode [0x13000000, 1, 1] = .error .unassignedOpcode := by rfl
theorem test_decode_rsv : decode [0x02000001, 2, 3] = .error .reservedHeaderBits := by rfl
theorem test_decode_short : decode [0x01000000, 5] = .error .missingArguments := by rfl
theorem test_decode_no_lengths : decode [0x31000000, 0xFFFFFFFF, 1] = .error .missingLengthWords := by rfl
theorem test_decode_long : decode [0x31000000, 2, 2, 2, 0x04030201, 0] = .error .wrongLength := by rfl
theorem test_decode_padding : decode [0x12000000, 3, 1, 0x01020301] = .error .nonzeroPadding := by rfl
theorem test_decode_operand_bits : decode [0x05000000, 0x1FF] = .error .nonzeroOperandBits := by rfl
theorem test_decode_mask : decode [0x37000000, 4, 0x01010200] = .error .maskByteAboveOne := by rfl

/-! Frames of table rows. -/

theorem test_tableWord_matMul : decodeTableWord 32 0x11000000 = some (.matMul 0 0 [] []) := by decide
theorem test_tableWord_reserved : decodeTableWord 32 0x3A000000 = none := by decide
theorem test_withFetchWord_runs_it :
    step (State.reset.withFetchWord 32 0x04000000) = .next { State.reset with responses := [[0, 1]] } := by rfl

/-! Steps, expected responses from spec/95_test_vectors.md. -/

theorem test_gfAdd : answer fresh [0x01000000, 0x53, 0xCA] = some [[0, 0x99]] := by decide
theorem test_gfMul : answer fresh [0x02000000, 0x53, 0xCA] = some [[0, 0x8F]] := by decide
theorem test_gfDiv : answer fresh [0x03000000, 0xFF, 0x02] = some [[0, 0xF1]] := by decide
theorem test_gfDiv_zero : answer fresh [0x03000000, 0x00, 0x00] = some [[0x04]] := by decide
theorem test_gfExp : answer fresh [0x04000000, 0x02, 0xFFFFFFFF] = some [[0, 0x01]] := by decide
theorem test_gfExp_zero : answer fresh [0x04000000, 0x00, 0] = some [[0, 0x01]] := by decide
theorem test_gfLog : answer fresh [0x05000000, 0xFF] = some [[0, 0xAF]] := by decide
theorem test_gfLog_zero : answer fresh [0x05000000, 0x00] = some [[0x0C]] := by decide
theorem test_matBuild : answer fresh [0x10000000, 2, 3] = some [[0, 2, 3, 0, 0]] := by decide
theorem test_matBuild_zero : answer fresh [0x10000000, 0, 3] = some [[0x02]] := by decide
theorem test_matMul :
    answer fresh [0x11000000, 2, 2, 2, 3, 3, 0x04030201, 0x00050001, 0x00000701] =
      some [[0, 2, 3, 0x030B0201, 0x00001304]] := by decide
theorem test_matMul_unequal :
    answer fresh [0x11000000, 2, 2, 2, 2, 1, 0x04030201, 0x00030201] = some [[0x03]] := by decide
theorem test_matInv_swaps_rows : answer fresh [0x12000000, 2, 2, 0x01010100] = some [[0, 2, 0x00010101]] := by decide
theorem test_matInv_noPivot :
    answer { fresh with params := demoParamsNoPivot } [0x12000000, 2, 2, 0x01010100] = some [[0x05]] := by decide
theorem test_vdmBuild : answer fresh [0x20000000, 5, 3] = some [[0, 5, 3, 1, 1, 0x01010101, 0x0006080F]] := by decide
theorem test_vdmBuild_rows_lt_cols : answer fresh [0x20000000, 2, 3] = some [[0x02]] := by decide
theorem test_raidConfig :
    (after fresh [0x30000000, 2, 2, 8]).map (fun t => (t.em, t.slots)) =
      some ([[1, 0], [0, 1], [3, 2], [2, 3]], [.absent, .absent, .absent, .absent]) := by decide
theorem test_raidConfig_too_many : answer fresh [0x30000000, 200, 57, 8] = some [[0x01]] := by decide
theorem test_encode :
    (after (raidWith [.absent, .absent, .absent, .absent]) [0x31000000, 2, 2, 2, 0x04030201]).map (·.slots) =
      some [.present [0x01, 0x02], .present [0x03, 0x04], .present [0x05, 0x0E], .present [0x07, 0x08]] := by decide
theorem test_encode_count : answer raid [0x31000000, 1, 2, 0x0201] = some [[0x03]] := by decide
theorem test_dropShard : (after raid [0x32000000, 0]).map (·.slots) = some [.absent, d1, p0, p1] := by decide
theorem test_dropShard_index : answer raid [0x32000000, 4] = some [[0x06]] := by decide
theorem test_bitFlip_last_bit :
    (after raid [0x33000000, 3, 15]).map (·.slots) = some [d0, d1, p0, .present [0x07, 0x88]] := by decide
theorem test_bitFlip_past_end : answer raid [0x33000000, 3, 16] = some [[0x07]] := by decide
theorem test_detect : answer raidDropped [0x34000000] = some [[0, 4, 0x00010100]] := by decide
theorem test_detect_unconfigured : answer fresh [0x34000000] = some [[0x01]] := by decide
theorem test_verify :
    answer (raidWith [d0, d1, p0, .present [0x07, 0x88]]) [0x35000000] =
      some [[0, 2, 2, 0x0E050001, 0x00000807]] := by decide
theorem test_verify_absent_data : answer raidDropped [0x35000000] = some [[0x03]] := by decide
theorem test_reconCorruption :
    (after (raidWith [d0, d1, p0, .present [0x07, 0x88]]) [0x36000000]).map (·.slots) = some [d0, d1, p0, p1] := by decide
theorem test_reconCorruption_all_invalid : answer raidNoParity [0x36000000] = some [[0x09]] := by decide
theorem test_reconData :
    (after (raidWith [.absent, d1, p0, p1]) [0x37000000, 4, 0x00010100]).map (·.slots) =
      some [d0, d1, p0, p1] := by decide
theorem test_reconData_noPivot :
    answer { raidWith [.absent, d1, p0, p1] with params := demoParamsNoPivot } [0x37000000, 4, 0x00010100] =
      some [[0x05]] := by decide
theorem test_reconDisk : (after raidDropped [0x38000000]).map (·.slots) = some [d0, d1, p0, p1] := by decide
theorem test_reconDisk_too_few :
    (after (raidWith [.absent, .absent, .absent, p1]) [0x38000000]).map (fun t => (t.responses, t.engineState)) =
      some ([[0x0A]], .unrecoverable) := by decide
theorem test_readShard : answer raid [0x39000000, 2] = some [[0, 1, 2, 0x0E05]] := by decide
theorem test_readShard_absent : answer raidDropped [0x39000000, 0] = some [[0, 0, 0]] := by decide
theorem test_illegal_changes_nothing :
    after raid [0x3A000000] = some { raid with responses := [[0x0D]] } := by decide
theorem test_reset_event :
    stateOf? (step { raid with port := [.cutFrame [0x38000000], .frame [0x34000000]] }) =
      some { fresh with port := [.frame [0x34000000]] } := by decide

/-- The parameters of the hardware are legal, whatever the two OPEN limits are. -/
theorem test_hardware_parameters_are_legal : Config.hardware.legal = true := by
  show ((0x11D : BitVec 9).getLsbD 8 && Machine.primitiveElement 0x11D 0x02 && Machine.primitiveElement 0x11D 0x02
    && decide (1 ≤ Config.maxDimLessOne + 1) && decide (1 ≤ Config.maxLenLessOne + 1)) = true
  rw [decide_eq_true (Nat.le_add_left 1 _), decide_eq_true (Nat.le_add_left 1 _)]
  decide

end Sys2Proof.Tests
end

