-- ==== Sys2Proof/Tests/Witnesses.lean ====
section
/-! SUPPORT. For every statement with hypotheses, concrete states and operands that meet all of them together, one for each
clause and at the ends of a clause's range. -/

namespace Sys2Proof.Tests

open Sys2Proof.Machine Sys2Proof.Claims

set_option maxRecDepth 100000

/-! The invariant's witnesses. -/

theorem raidWith_configured (slots : List Slot) (h : Memory.wf slots 4 2 = true) : (raidWith slots).Configured where
  valid := rfl
  kPos := Nat.le_of_ble_eq_true rfl
  mPos := Nat.le_of_ble_eq_true rfl
  totalLe := Nat.le_of_ble_eq_true rfl
  capPos := Nat.le_of_ble_eq_true rfl
  capLe := Nat.le_of_ble_eq_true rfl
  capWord := Nat.le_of_ble_eq_true rfl
  lenLe := Nat.le_of_ble_eq_true rfl
  slotsWf := h
  presentLen := fun _ => Nat.le_of_ble_eq_true rfl
  emBuilt := rfl

theorem raid_configured : raid.Configured := raidWith_configured _ (by decide)
theorem raidDropped_configured : raidDropped.Configured := raidWith_configured _ (by decide)
theorem raidNoParity_configured : raidNoParity.Configured := raidWith_configured _ (by decide)

theorem raidOneParity_configured : raidOneParity.Configured where
  valid := rfl
  kPos := by decide
  mPos := by decide
  totalLe := by decide
  capPos := by decide
  capLe := by decide
  capWord := by decide
  lenLe := by decide
  slotsWf := by decide
  presentLen := fun _ => by decide
  emBuilt := rfl

/-- The data of `raid`. -/
def demoData : Mat := [[0x01, 0x02], [0x03, 0x04]]

theorem demoData_isMat : IsMat 2 2 demoData := ⟨rfl, by decide⟩

theorem raid_holdsCode : HoldsCode raid demoData := ⟨demoData_isMat, by decide⟩

theorem raidOneParity_holdsCode : HoldsCode raidOneParity demoData := ⟨demoData_isMat, by decide⟩

/-! Frames and decoding. -/

theorem witness_DecodeOfEncodeIsTheCommand :
    (Instr.matMul 2 1 [0x01, 0x02] [[0x03, 0x04, 0x05]]).wellFormed = true := by decide

theorem witness_EncodeOfDecodeIsTheFrame : ∃ ws i, decode ws = .ok i := ⟨_, _, test_decode_reconData⟩

theorem witness_IllegalFrameIsAnsweredAndChangesNothing :
    ∃ (s : State) (ws : Frame) (rest : List HostEvent), s.port = .frame ws :: rest ∧ ¬ LegalFrame ws :=
  ⟨{ raid with port := [.frame [0x06000000, 1]] }, _, [], rfl, by
    rintro ⟨_, _, f, hf, _⟩
    have h : formatOf (w [0x06000000, 1] 0 / 2 ^ 24) = none := by decide
    rw [h] at hf
    cases hf⟩

theorem witness_StepRunsTheDecodedCommand :
    ∃ (s : State) (ws : Frame) (rest : List HostEvent) (i : Instr), s.port = .frame ws :: rest ∧ decode ws = .ok i :=
  ⟨{ raid with port := [.frame [0x39000000, 4]] }, _, [], _, rfl, test_decode_readShard⟩

/-! Whole-machine rules. -/

theorem witness_ResetLeavesTheSpecsValues :
    ({ raid with port := [.reset] } : State).port = .reset :: [] ∧
    ({ raid with port := [.cutFrame [0x38000000]] } : State).port = .cutFrame [0x38000000] :: [] := ⟨rfl, rfl⟩

theorem witness_IdleStepChangesNothing : raid.port = [] := rfl

theorem witness_EveryFrameGetsExactlyOneResponse :
    ({ raid with port := [.frame [], .reset] } : State).port = .frame [] :: [.reset] := rfl

theorem witness_FailingCommandLeavesTheArchitecturalState :
    ∃ t, step { raid with port := [.frame [0x32000000, 4]] } = .next t ∧ t.responses = raid.responses ++ [0x06 :: []] :=
  exists_next ⟨_, rfl, by decide⟩

theorem witness_StepKeepsTheInvariant :
    ∃ t, ({ raid with port := [.frame [0x32000000, 0]] } : State).Inv ∧
      step { raid with port := [.frame [0x32000000, 0]] } = .next t ∧ t.slots = [.absent, d1, p0, p1] := by
  obtain ⟨t, h⟩ := exists_next (r := step { raid with port := [.frame [0x32000000, 0]] })
    (p := fun t => t.slots = [.absent, d1, p0, p1]) ⟨_, rfl, by decide⟩
  exact ⟨t, .inl { raid_configured with }, h⟩

theorem witness_UnconfiguredEngineCommandIsRefused : NeedsConfiguration .reconDisk ∧ fresh.cfgValid = false :=
  ⟨trivial, rfl⟩

theorem witness_CommandsWriteOnlyTheirListedState :
    ∃ t, exec (.bitFlip 3 15) raid = .next t ∧ t.slots ≠ raid.slots := exists_next ⟨_, rfl, by decide⟩

theorem witness_PureCommandsDependOnNoState : IsPure (.vdmBuild 3 2) ∧ raid.params = fresh.params := ⟨trivial, rfl⟩

theorem witness_OutcomeDependsOnFrameAndArchitecturalStateOnly :
    ∃ s s' : State, s.port = .frame [0x38000000] :: [] ∧ s'.port = .frame [0x38000000] :: [.reset] ∧ s.arch = s'.arch ∧
      s.params = s'.params ∧ s.engineState ≠ s'.engineState ∧ s.responses ≠ s'.responses :=
  ⟨{ raidDropped with port := [.frame [0x38000000]] },
   { raidDropped with port := [.frame [0x38000000], .reset], engineState := .corrupted, responses := [[0]] },
   rfl, rfl, rfl, rfl, by decide, by decide⟩

theorem witness_ReadsChangeNothingAndRepeat :
    ∀ i ∈ [Instr.detect, .verify, .readShard 0xFFFFFFFF], i = .detect ∨ i = .verify ∨ ∃ index, i = .readShard index := by
  simp

theorem witness_UnrecoverableIsLeftOnlyByEncodeConfigOrReset_reset :
    ∃ t, step { raid with engineState := .unrecoverable, port := [.reset] } = .next t ∧ t.engineState ≠ .unrecoverable :=
  exists_next ⟨_, rfl, by decide⟩

theorem witness_UnrecoverableIsLeftOnlyByEncodeConfigOrReset_encode :
    ∃ t, step { raid with engineState := .unrecoverable, port := [.frame [0x31000000, 2, 1, 1, 0x0201]] } = .next t ∧
      t.engineState ≠ .unrecoverable := exists_next ⟨_, rfl, by decide⟩

theorem witness_UnrecoverableIsLeftOnlyByEncodeConfigOrReset_config :
    ∃ t, step { raid with engineState := .unrecoverable, port := [.frame [0x30000000, 1, 1, 1]] } = .next t ∧
      t.engineState ≠ .unrecoverable := exists_next ⟨_, rfl, by decide⟩

theorem witness_OnlyGfLogDependsOnTheGenerator : ∀ a, Instr.reconDisk ≠ .gfLog a := by simp

/-! GF(2^8). -/

theorem witness_FieldLaws : demoParams.legal = true ∧ (0xFF : Byte) ≠ 0x00 := ⟨demoParams_legal, by decide⟩

theorem witness_NonzeroElementsAreUnits : demoParams.legal = true ∧ (0x01 : Byte) ≠ 0x00 :=
  ⟨demoParams_legal, by decide⟩

theorem witness_GmulIsThePolynomialProductModuloTheFieldPolynomial : (0x11D : BitVec 9).getLsbD 8 = true := by decide

theorem witness_GfDivReturnsTheUniqueQuotient : fresh.params.legal = true ∧ (0x01 : Byte) ≠ 0x00 :=
  ⟨demoParams_legal, by decide⟩

theorem witness_PowersFollowTheirRecurrenceAndPeriod : demoParams.legal = true ∧ (0x02 : Byte) ≠ 0x00 :=
  ⟨demoParams_legal, by decide⟩

theorem witness_GfLogReturnsTheUniqueExponent :
    fresh.params.legal = true ∧ (0x8E : Byte) ≠ 0x00 ∧ glog fresh.params 0x8E = 254 ∧ glog fresh.params 0x01 = 0 :=
  ⟨demoParams_legal, by decide, by decide, by decide⟩

/-! Matrices. -/

theorem witness_MatBuildReturnsTheZeroMatrix :
    DimOk fresh 1 ∧ DimOk fresh 4 ∧ ¬ (DimOk fresh 0 ∧ DimOk fresh 1) ∧ ¬ (DimOk fresh 1 ∧ DimOk fresh 5) := by
  unfold DimOk; decide

theorem witness_MatmulEntriesAreTheXorOfProducts :
    IsMat 1 2 [[0x01, 0x02]] ∧ IsMat 2 3 [[0x03, 0x04, 0x05], [0x06, 0x07, 0x08]] := by
  unfold IsMat; decide

theorem witness_ByteLanesAreIndependent :
    matCol [[0x01, 0x02], [0x03, 0x04]] 1 = matCol [[0x05, 0x02, 0x07], [0x06, 0x04, 0x08]] 1 ∧ 1 < 2 ∧ 1 < 3 := by
  decide

/-- The count clause, the unequal clause, the two ends of the length clauses, in that order. -/
theorem witness_MatMulChecksInOrderAndReturnsTheProduct :
    DimOk fresh 2 ∧ DimOk fresh 1 ∧
    (Instr.matMul 2 1 [0x01, 0x02] []).wellFormed = true ∧ ([] : List Buffer).length ≠ (1 : Word).toNat ∧
    (Instr.matMul 1 2 [0x01, 0x02] [[0x03], []]).wellFormed = true ∧
    (∃ b ∈ ([[0x03], []] : List Buffer), ∃ b' ∈ ([[0x03], []] : List Buffer), b.length ≠ b'.length) ∧
    (Instr.matMul 2 1 [0x01, 0x02] [[]]).wellFormed = true ∧
    (Instr.matMul 2 1 [0x01, 0x02] [List.replicate 17 0x00]).wellFormed = true ∧ fresh.params.maxLen < 17 ∧
    (Instr.matMul 2 1 [0x01, 0x02] [List.replicate 16 0x00]).wellFormed = true ∧ 16 ≤ fresh.params.maxLen := by
  unfold DimOk; decide

/-- Too large, not square, singular, invertible. -/
theorem witness_MatInvChecksInOrderAndReturnsGinvert :
    (IsMat 1 5 [[0, 0, 0, 0, 0]] ∧ ¬ (DimOk fresh 1 ∧ DimOk fresh 5)) ∧
    (IsMat 1 2 [[0, 0]] ∧ DimOk fresh 1 ∧ DimOk fresh 2 ∧ (1 : Word) ≠ 2) ∧
    (IsMat 2 2 [[1, 2], [2, 4]] ∧ ginvert 0x11D .partialPivot 2 [[1, 2], [2, 4]] = none) ∧
    (IsMat 2 2 [[0, 1], [1, 1]] ∧ ginvert 0x11D .partialPivot 2 [[0, 1], [1, 1]] = some [[1, 1], [1, 0]]) := by
  unfold IsMat DimOk; decide

theorem witness_PartialPivotingInvertsExactlyTheInvertible_invertible :
    fresh.params.legal = true ∧ fresh.params.pivotMode = .partialPivot ∧ DimOk fresh 2 ∧ IsMat 2 2 [[0, 1], [1, 1]] ∧
      IsMat 2 2 [[1, 1], [1, 0]] ∧ IsInverse 0x11D 2 [[0, 1], [1, 1]] [[1, 1], [1, 0]] :=
  ⟨demoParams_legal, rfl, by unfold DimOk; decide, by unfold IsMat; decide, by unfold IsMat; decide,
    by unfold IsInverse; decide⟩

theorem no_inverse_of_zero_entry (a : Mat) (h : entry a 0 0 = 0x00) : ¬ ∃ y, IsInverse 0x11D 1 a y := by
  rintro ⟨y, hy⟩
  have h0 := hy 0 (by decide) 0 (by decide)
  have hz : ∀ b : Byte, gmul 0x11D 0x00 b = 0x00 := by decide
  simp [xorOver, h] at h0
  exact absurd ((hz (entry y 0 0)).symm.trans h0) (by decide)

theorem witness_PartialPivotingInvertsExactlyTheInvertible_singular :
    fresh.params.legal = true ∧ fresh.params.pivotMode = .partialPivot ∧ DimOk fresh 1 ∧ IsMat 1 1 [[0]] ∧
      ¬ ∃ x, IsMat 1 1 x ∧ IsInverse 0x11D 1 [[0]] x :=
  ⟨demoParams_legal, rfl, by unfold DimOk; decide, by unfold IsMat; decide, fun ⟨x, _, hx⟩ =>
    no_inverse_of_zero_entry [[0]] rfl ⟨x, hx⟩⟩

/-- A block in pivot mode `none`. -/
def freshNoPivot : State := State.powerOn demoParamsNoPivot

theorem witness_NoPivotingInvertsExactlyWithInvertibleLeadingBlocks_invertible :
    freshNoPivot.params.legal = true ∧ freshNoPivot.params.pivotMode = .noPivot ∧ DimOk freshNoPivot 1 ∧
      IsMat 1 1 [[1]] ∧ (∀ t, 1 ≤ t → t ≤ 1 → ∃ y, IsInverse 0x11D t [[1]] y) ∧ IsMat 1 1 [[1]] ∧
      IsInverse 0x11D 1 [[1]] [[1]] := by
  have h : IsInverse 0x11D 1 [[1]] [[1]] := by unfold IsInverse; decide
  refine ⟨demoParamsNoPivot_legal, rfl, by unfold DimOk; decide, by unfold IsMat; decide, fun t h1 h2 => ?_,
    by unfold IsMat; decide, h⟩
  obtain rfl : t = 1 := by omega
  exact ⟨_, h⟩

theorem witness_NoPivotingInvertsExactlyWithInvertibleLeadingBlocks_singular :
    freshNoPivot.params.legal = true ∧ freshNoPivot.params.pivotMode = .noPivot ∧ DimOk freshNoPivot 2 ∧
      IsMat 2 2 [[0, 1], [1, 1]] ∧ ∃ t, 1 ≤ t ∧ t ≤ 2 ∧ ¬ ∃ y, IsInverse 0x11D t [[0, 1], [1, 1]] y :=
  ⟨demoParamsNoPivot_legal, rfl, by unfold DimOk; decide, by unfold IsMat; decide, 1, by decide, by decide,
    no_inverse_of_zero_entry [[0, 1], [1, 1]] rfl⟩

/-- The bounds of VDM_BUILD: 1 <= cols <= rows <= 256 at both ends, and just outside each. -/
theorem witness_VdmBuildReturnsTheEncodingMatrix :
    (1 ≤ (1 : Word).toNat ∧ (1 : Word).toNat ≤ (256 : Word).toNat ∧ (256 : Word).toNat ≤ 256) ∧
    ¬ (1 ≤ (0 : Word).toNat ∧ (0 : Word).toNat ≤ (1 : Word).toNat ∧ (1 : Word).toNat ≤ 256) ∧
    ¬ (1 ≤ (2 : Word).toNat ∧ (2 : Word).toNat ≤ (1 : Word).toNat ∧ (1 : Word).toNat ≤ 256) ∧
    ¬ (1 ≤ (1 : Word).toNat ∧ (1 : Word).toNat ≤ (257 : Word).toNat ∧ (257 : Word).toNat ≤ 256) := by decide

theorem witness_VandermondeEntriesArePowers : 255 < 256 ∧ 7 < 8 := by decide

theorem witness_VdmTopBlockIsTheIdentity : demoParams.legal = true ∧ 1 ≤ 5 ∧ 5 ≤ 256 ∧ 256 ≤ 256 :=
  ⟨demoParams_legal, by decide, by decide, by decide⟩

theorem witness_AnyColsRowsOfVdmAreInvertible :
    demoParams.legal = true ∧ 1 ≤ 2 ∧ 2 ≤ 4 ∧ 4 ≤ 256 ∧ [3, 1].length = 2 ∧ [3, 1].Nodup ∧ ∀ i ∈ [3, 1], i < 4 :=
  ⟨demoParams_legal, by decide⟩

/-! The engine. -/

/-- The ends of the accepted ranges, and one value past each. -/
theorem witness_RaidConfigWritesTheConfiguration :
    (1 ≤ (255 : Word).toNat ∧ 1 ≤ (1 : Word).toNat ∧ (255 : Word).toNat + (1 : Word).toNat ≤ 256 ∧
      1 ≤ (16 : Word).toNat ∧ (16 : Word).toNat ≤ raid.params.maxLen) ∧
    (0 : Word).toNat = 0 ∧ 256 < (255 : Word).toNat + (2 : Word).toNat ∧ raid.params.maxLen < (17 : Word).toNat := by
  decide

theorem witness_CommandsRightAfterRaidConfig :
    ∃ t, exec (.raidConfig 2 1 8) raid = .next t ∧ t.responses = raid.responses ++ [[0x00]] ∧
      (2 : Word).toNat < (2 : Word).toNat + (1 : Word).toNat ∧
      ([true, false, true] : List Bool).length = (2 : Word).toNat + (1 : Word).toNat := exists_next ⟨_, rfl, by decide⟩

/-- Wrong count, unequal lengths, the ends of the length range. -/
theorem witness_EncodeChecksInOrderAndWritesEverySlot :
    raid.Configured ∧ ([[0x01]] : List Buffer).length ≠ raid.cfgK ∧
    (([[0x01], []] : List Buffer).length = raid.cfgK ∧
      ∃ b ∈ ([[0x01], []] : List Buffer), ∃ b' ∈ ([[0x01], []] : List Buffer), b.length ≠ b'.length) ∧
    (([[], []] : List Buffer).length = raid.cfgK ∧ ∀ b ∈ ([[], []] : List Buffer), b.length = 0) ∧
    raid.cfgCap < 9 ∧ 8 ≤ raid.cfgCap ∧ 1 ≤ 8 := ⟨raid_configured, by decide⟩

theorem witness_EncodeIsSystematic :
    raidDropped.Configured ∧ raidDropped.params.legal = true ∧ IsMat raidDropped.cfgK 2 demoData ∧ 1 ≤ 2 ∧
      2 ≤ raidDropped.cfgCap :=
  ⟨raidDropped_configured, demoParams_legal, demoData_isMat, by decide, by decide⟩

theorem witness_DropShardMakesOneSlotAbsent :
    raid.Configured ∧ raid.total ≤ (4 : Word).toNat ∧ (3 : Word).toNat < raid.total := ⟨raid_configured, by decide⟩

theorem witness_BitFlipInvertsExactlyOneBit_present :
    raid.Configured ∧ raid.total ≤ (4 : Word).toNat ∧ (3 : Word).toNat < raid.total ∧
      raid.slotRead (3 : Word).toNat = .present [0x07, 0x08] ∧ 8 * raid.cfgShardLen ≤ (16 : Word).toNat ∧
      (15 : Word).toNat < 8 * raid.cfgShardLen := ⟨raid_configured, by decide⟩

theorem witness_BitFlipInvertsExactlyOneBit_absent :
    raidDropped.Configured ∧ (0 : Word).toNat < raidDropped.total ∧ raidDropped.slotRead (0 : Word).toNat = .absent :=
  ⟨raidDropped_configured, by decide⟩

theorem witness_DetectReportsPresence : raidDropped.Configured := raidDropped_configured

theorem witness_ReadShardReturnsTheSlot :
    raidDropped.Configured ∧ raidDropped.total ≤ (4 : Word).toNat ∧
      ((0 : Word).toNat < raidDropped.total ∧ raidDropped.slotRead (0 : Word).toNat = .absent) ∧
      (1 : Word).toNat < raidDropped.total ∧ raidDropped.slotRead (1 : Word).toNat = .present [0x03, 0x04] :=
  ⟨raidDropped_configured, by decide⟩

theorem witness_VerifyRecomputesTheParity :
    (raidDropped.Configured ∧ ∃ c < raidDropped.cfgK, raidDropped.slotRead c = .absent) ∧
    (raid.Configured ∧ ∀ c < raid.cfgK, raid.slotRead c ≠ .absent) :=
  ⟨⟨raidDropped_configured, by decide⟩, raid_configured, by decide⟩

theorem witness_ReconCorruptionRepairsInvalidParity :
    (raidDropped.Configured ∧ ∃ c < raidDropped.cfgK, raidDropped.slotRead c = .absent) ∧
    (raidNoParity.Configured ∧ (∀ c < raidNoParity.cfgK, raidNoParity.slotRead c ≠ .absent) ∧
      ∀ j < raidNoParity.cfgM, raidNoParity.slotRead (raidNoParity.cfgK + j) ≠ .present (parityRow raidNoParity j)) ∧
    (raid.Configured ∧ (∀ c < raid.cfgK, raid.slotRead c ≠ .absent) ∧
      ∃ j < raid.cfgM, raid.slotRead (raid.cfgK + j) = .present (parityRow raid j)) :=
  ⟨⟨raidDropped_configured, by decide⟩, ⟨raidNoParity_configured, by decide, by decide⟩, raid_configured, by decide,
    by decide⟩

/-- The mask `[00 01 01 01]` selects slots 1 and 2. -/
theorem selection_demo : IsSelection 2 [false, true, true, true] [1, 2] := by
  refine ⟨rfl, by decide, by decide, fun i hi hn j hj => ?_⟩
  match i with
  | 0 => simp at hi
  | 1 => simp at hn
  | 2 => simp at hn
  | n + 3 => simp at hj; omega

theorem witness_ReconDataChecksInOrderAndWritesTheDataSlots :
    raidDropped.Configured ∧ [true].length ≠ raidDropped.total ∧
    ([false, true, false, false].length = raidDropped.total ∧ [false, true, false, false].count true < raidDropped.cfgK) ∧
    ([false, true, true, true].length = raidDropped.total ∧
      IsSelection raidDropped.cfgK [false, true, true, true] [1, 2] ∧
      (∀ i ∈ [1, 2], raidDropped.slotRead i ≠ .absent) ∧
      ∃ x, ginvert raidDropped.params.gfPoly raidDropped.params.pivotMode raidDropped.cfgK
        ([1, 2].map (matRow raidDropped.em)) = some x) :=
  ⟨raidDropped_configured, by decide, by decide, by decide, selection_demo, by decide, _, rfl⟩

theorem witness_ReconDataChecksInOrderAndWritesTheDataSlots_absent :
    (raidWith [d0, .absent, p0, p1]).Configured ∧ IsSelection 2 [false, true, true, true] [1, 2] ∧
      ∃ i ∈ [1, 2], (raidWith [d0, .absent, p0, p1]).slotRead i = .absent :=
  ⟨raidWith_configured _ (by decide), selection_demo, by decide⟩

theorem witness_ReconDataChecksInOrderAndWritesTheDataSlots_singular :
    ({ raidDropped with params := demoParamsNoPivot } : State).Configured ∧
      IsSelection 2 [false, true, true, true] [1, 2] ∧ (∀ i ∈ [1, 2], raidDropped.slotRead i ≠ .absent) ∧
      ginvert demoParamsNoPivot.gfPoly demoParamsNoPivot.pivotMode 2 ([1, 2].map (matRow raidDropped.em)) = none :=
  ⟨{ raidDropped_configured with }, selection_demo, by decide, by decide⟩

/-- Mode `partial`, a parity slot among the selected. -/
theorem witness_ReconDataRecoversTheEncodedData :
    ∃ t, exec (.reconData [false, true, true, true]) raidDropped = .next t ∧
      (raidDropped.Configured ∧ raidDropped.params.legal = true ∧ raidDropped.params.pivotMode = .partialPivot ∧
        IsMat raidDropped.cfgK raidDropped.cfgShardLen demoData ∧
        [false, true, true, true].length = raidDropped.total ∧ IsSelection raidDropped.cfgK [false, true, true, true] [1, 2] ∧
        (∀ i ∈ [1, 2], raidDropped.slotRead i = .present (codeRow raidDropped demoData raidDropped.cfgShardLen i)) ∧
        t.responses = raidDropped.responses ++ [[0x00]] ∧ 0 < raidDropped.cfgM ∧ raidDropped.cfgK + 0 ∈ [1, 2]) :=
  exists_next ⟨_, rfl, raidDropped_configured, demoParams_legal, rfl, demoData_isMat, rfl, selection_demo, by decide,
    by decide, by decide, by decide⟩

/-- `raid` in pivot mode `none`, the higher data slot lost: a prefix of the data slots is present. -/
def noPivotPrefix : State := { raidWith [d0, .absent, p0, .absent] with params := demoParamsNoPivot }

/-- `raid` in pivot mode `none`, the lower data slot lost: no prefix. -/
def noPivotHole : State := { raidWith [.absent, d1, p0, .absent] with params := demoParamsNoPivot }

theorem noPivotPrefix_configured : noPivotPrefix.Configured :=
  { raidWith_configured [d0, .absent, p0, .absent] (by decide) with }

theorem noPivotHole_configured : noPivotHole.Configured :=
  { raidWith_configured [.absent, d1, p0, .absent] (by decide) with }

theorem selection_prefix : IsSelection 2 [true, false, true, false] [0, 2] := by
  refine ⟨rfl, by decide, by decide, fun i hi hn j hj => ?_⟩
  match i with
  | 0 => simp at hn
  | 1 => simp at hi
  | 2 => simp at hn
  | 3 => simp at hi
  | n + 4 => simp at hj; omega

/-- Mode `none`, RECON_DATA succeeding on the lower data slot and the first parity slot. -/
theorem witness_ReconDataRecoversTheEncodedData_noPivot :
    ∃ t, exec (.reconData noPivotPrefix.presence) noPivotPrefix = .next t ∧
      (noPivotPrefix.Configured ∧ noPivotPrefix.params.legal = true ∧ IsMat noPivotPrefix.cfgK noPivotPrefix.cfgShardLen demoData ∧
        noPivotPrefix.presence.length = noPivotPrefix.total ∧ IsSelection noPivotPrefix.cfgK noPivotPrefix.presence [0, 2] ∧
        (∀ i ∈ [0, 2], noPivotPrefix.slotRead i = .present (codeRow noPivotPrefix demoData noPivotPrefix.cfgShardLen i)) ∧
        t.responses = noPivotPrefix.responses ++ [[0x00]]) :=
  exists_next ⟨_, rfl, noPivotPrefix_configured, demoParamsNoPivot_legal, demoData_isMat, by decide,
    selection_prefix, by decide, by decide⟩

/-- Too few slots, every slot present, parity-only loss, a data slot lost in each pivot mode. -/
theorem witness_ReconDiskCaseSplit :
    ((raidWith [.absent, .absent, .absent, p1]).Configured ∧
      presentCount (raidWith [.absent, .absent, .absent, p1]) 0 2 + presentCount (raidWith [.absent, .absent, .absent, p1]) 2 2
        < 2) ∧
    (raid.Configured ∧ ∀ i < raid.total, raid.slotRead i ≠ .absent) ∧
    (raidNoParity.Configured ∧ (∀ c < raidNoParity.cfgK, raidNoParity.slotRead c ≠ .absent) ∧
      ∃ j < raidNoParity.cfgM, raidNoParity.slotRead (raidNoParity.cfgK + j) = .absent) ∧
    (raidDropped.Configured ∧ 2 ≤ presentCount raidDropped 0 2 + presentCount raidDropped 2 2 ∧
      ∃ c < raidDropped.cfgK, raidDropped.slotRead c = .absent) :=
  ⟨⟨raidWith_configured _ (by decide), by decide⟩, ⟨raid_configured, by decide⟩,
    ⟨raidNoParity_configured, by decide, by decide⟩, raidDropped_configured, by decide, by decide⟩

theorem witness_ReconDiskCaseSplit_singular :
    exec (.reconData raidDropped.presence) { raidDropped with params := demoParamsNoPivot } =
      .next (answered { raidDropped with params := demoParamsNoPivot } [0x05]) := next_of_stateOf? (by decide)

theorem witness_ReconDiskCaseSplit_repaired :
    ∃ u, exec (.reconData raidDropped.presence) raidDropped = .next u ∧
      (u.responses = raidDropped.responses ++ [[0x00]] ∧
        ∃ v, exec .reconCorruption u = .next v ∧ v.responses = u.responses ++ [[0x00]]) :=
  exists_next ⟨_, rfl, by decide, exists_next ⟨_, rfl, by decide⟩⟩

theorem witness_ReconDiskSecondStepNeverFails :
    ∃ u, exec (.reconData raidDropped.presence) raidDropped = .next u ∧
      (raidDropped.Configured ∧ raidDropped.params.legal = true ∧
        (∃ c < raidDropped.cfgK, raidDropped.slotRead c = .absent) ∧ u.responses = raidDropped.responses ++ [[0x00]]) :=
  exists_next ⟨_, rfl, raidDropped_configured, demoParams_legal, by decide, by decide⟩

theorem witness_InvalidReconstructionStateIsNeverAnswered :
    ∃ t, step { raidDropped with port := [.frame [0x38000000]] } = .next t ∧ t.slots = raid.slots :=
  exists_next ⟨_, rfl, by decide⟩

/-- The premises of `ReconDiskRestoresUpToMErasures` on the array of `raid` with the encoded data or Absent in each slot. -/
def ErasedCode (s : State) : Prop :=
  s.Configured ∧ s.params.legal = true ∧ IsMat s.cfgK s.cfgShardLen demoData ∧
    ∀ i < s.total, s.slotRead i = .absent ∨ s.slotRead i = .present (codeRow s demoData s.cfgShardLen i)

theorem raidNoParity_erasedCode : ErasedCode raidNoParity :=
  ⟨raidNoParity_configured, demoParams_legal, demoData_isMat, by decide⟩

/-- Too many lost, exactly the parity lost, and the most erasures otherwise. -/
theorem witness_ReconDiskRestoresUpToMErasures :
    (ErasedCode (raidWith [.absent, .absent, .absent, p1]) ∧
      presentCount (raidWith [.absent, .absent, .absent, p1]) 0 2 + presentCount (raidWith [.absent, .absent, .absent, p1]) 2 2
        < 2) ∧
    (ErasedCode raidNoParity ∧ presentCount raidNoParity 0 raidNoParity.cfgK = raidNoParity.cfgK ∧
      presentCount raidNoParity raidNoParity.cfgK raidNoParity.cfgM = 0) ∧
    (ErasedCode raidDropped ∧ raidDropped.params.pivotMode = .partialPivot ∧
      raidDropped.cfgK ≤ presentCount raidDropped 0 raidDropped.cfgK + presentCount raidDropped raidDropped.cfgK raidDropped.cfgM ∧
      ¬ (presentCount raidDropped 0 raidDropped.cfgK = raidDropped.cfgK ∧
        presentCount raidDropped raidDropped.cfgK raidDropped.cfgM = 0)) :=
  ⟨⟨⟨raidWith_configured _ (by decide), demoParams_legal, demoData_isMat, by decide⟩, by decide⟩,
    ⟨raidNoParity_erasedCode, by decide⟩,
    ⟨raidDropped_configured, demoParams_legal, demoData_isMat, by decide⟩, by decide⟩

/-- Mode `none`: a prefix of the data slots present, and not; each with as many slots present as K. -/
theorem witness_ReconDiskRestoresUpToMErasures_noPivot :
    (ErasedCode noPivotPrefix ∧ DataPrefix noPivotPrefix ∧
      noPivotPrefix.cfgK = presentCount noPivotPrefix 0 2 + presentCount noPivotPrefix 2 2 ∧ presentCount noPivotPrefix 2 2 = 1) ∧
    (ErasedCode noPivotHole ∧ noPivotHole.params.pivotMode = .noPivot ∧ ¬ DataPrefix noPivotHole ∧
      noPivotHole.cfgK = presentCount noPivotHole 0 2 + presentCount noPivotHole 2 2 ∧ presentCount noPivotHole 2 2 = 1) :=
  ⟨⟨⟨noPivotPrefix_configured, demoParamsNoPivot_legal, demoData_isMat, by decide⟩,
      by unfold DataPrefix; exact ⟨1, by decide, by decide⟩, by decide⟩,
    ⟨noPivotHole_configured, demoParamsNoPivot_legal, demoData_isMat, by decide⟩, rfl,
    fun ⟨_, _, h⟩ => (h 0 (by decide)).2 (Nat.lt_of_le_of_lt (Nat.zero_le 1) ((h 1 (by decide)).1 (by decide))) rfl, by decide⟩

theorem witness_OneParityBitFlipIsDetectedAndRepaired_two :
    ∃ t, exec (.bitFlip 3 15) raid = .next t ∧
      (raid.Configured ∧ raid.params.legal = true ∧ HoldsCode raid demoData ∧ 1 < raid.cfgM ∧
        (3 : Word).toNat = raid.cfgK + 1 ∧ (15 : Word).toNat < 8 * raid.cfgShardLen ∧ 2 ≤ raid.cfgM) :=
  exists_next ⟨_, rfl, raid_configured, demoParams_legal, raid_holdsCode, by decide, by decide, by decide, by decide⟩

theorem witness_OneParityBitFlipIsDetectedAndRepaired_one :
    ∃ t, exec (.bitFlip 2 0) raidOneParity = .next t ∧
      (raidOneParity.Configured ∧ raidOneParity.params.legal = true ∧ HoldsCode raidOneParity demoData ∧
        0 < raidOneParity.cfgM ∧ (2 : Word).toNat = raidOneParity.cfgK + 0 ∧
        (0 : Word).toNat < 8 * raidOneParity.cfgShardLen ∧ raidOneParity.cfgM = 1) :=
  exists_next ⟨_, rfl, raidOneParity_configured, demoParams_legal, raidOneParity_holdsCode, by decide, by decide, by decide,
    by decide⟩

theorem witness_OneDataBitFlipIsUnrecoverable :
    ∃ t, exec (.bitFlip 1 15) raid = .next t ∧
      (raid.Configured ∧ raid.params.legal = true ∧ HoldsCode raid demoData ∧ 1 < raid.cfgK ∧ (1 : Word).toNat = 1 ∧
        (15 : Word).toNat < 8 * raid.cfgShardLen) :=
  exists_next ⟨_, rfl, raid_configured, demoParams_legal, raid_holdsCode, by decide, by decide, by decide⟩

end Sys2Proof.Tests
end

section
/-! PROOFS, family 10_state. How a command can end: with `raise` from the state it started in, or with `complete` from a
state that `Effect` names. The statements on the invariant, on who writes what and on ENGINE_STATE follow from that. -/

namespace Sys2Proof.Machine

open Sys2Proof.Claims

variable {s t : State}

/-! What the reconstruction functions write. -/

theorem SameButSlots.exists_slots (h : SameButSlots s t) : ∃ slots, t = { s with slots := slots } := ⟨t.slots, h⟩

/-- A property that holds of `s` and that every repair write keeps holds after all of them. -/
theorem repairParity_induction {P : State → Prop} (valid : List Bool) (p : Mat) (s : State) (h0 : P s)
    (hw : ∀ t j, P t → P (t.slotWrite (s.cfgK + j) (.present (matRow p j)))) : P (s.repairParity valid p) := by
  refine List.foldlRecOn (motive := P) _ _ h0 fun t ht j _ => ?_
  split
  · exact ht
  · exact hw t j ht

/-- RECON_CORRUPTION's writes keep the array's size and every data slot. -/
theorem repairParity_keeps_data (valid : List Bool) (p : Mat) (s : State) :
    (s.repairParity valid p).slots.length = s.slots.length ∧
      ∀ j < s.cfgK, (s.repairParity valid p).slotRead j = s.slotRead j := by
  refine repairParity_induction
    (P := fun t => t.slots.length = s.slots.length ∧ ∀ j < s.cfgK, t.slotRead j = s.slotRead j) valid p s ⟨rfl, fun _ _ => rfl⟩ ?_
  rintro t j ⟨hlen, hread⟩
  refine ⟨by simpa using hlen, fun i hi => ?_⟩
  rw [slotRead_slotWrite_other _ _ _ (by omega), hread i hi]

/-- What RECON_CORRUPTION writes when it succeeds, and that it read every data slot for it. -/
theorem reconCorruption_ok (h : s.reconCorruption = .ok t) :
    (∀ c < s.cfgK, s.isPresent c = true) ∧ ∃ valid, t = s.repairParity valid s.recomputedParity := by
  rcases reconCorruption_cases s with ⟨_, h'⟩ | ⟨_, _, h'⟩ | ⟨hdata, _, h'⟩ <;> rw [h'] at h <;> cases h
  exact ⟨hdata, _, rfl⟩

theorem reconCorruption_keeps_data (h : s.reconCorruption = .ok t) :
    t.slots.length = s.slots.length ∧ ∀ j < s.cfgK, t.slotRead j = s.slotRead j := by
  obtain ⟨_, valid, rfl⟩ := reconCorruption_ok h
  exact repairParity_keeps_data _ _ s

/-- What RECON_DATA writes when it succeeds, and that it read K present slots for it. -/
theorem reconData_ok {mask : List Bool} (h : s.reconData mask = .ok t) :
    s.cfgK ≤ (selectShards s.cfgK mask).length ∧ (∀ i ∈ selectShards s.cfgK mask, s.isPresent i = true) ∧
      ∃ x bufs, x.length = s.cfgK ∧ t = s.writeRows 0 (matmul s.params.gfPoly x bufs s.cfgShardLen) := by
  rcases reconData_cases mask s with ⟨_, h'⟩ | ⟨_, _, h'⟩ | ⟨_, _, _, h'⟩ | ⟨_, _, _, _, h'⟩ | ⟨_, hk, hp, x, hx, h'⟩ <;>
    rw [h'] at h <;> cases h
  exact ⟨hk, hp, x, _, ginvert_length hx, rfl⟩

/-- RECON_DATA writes data slots only. -/
theorem reconData_keeps_parity {mask : List Bool} (h : s.reconData mask = .ok t) :
    t.slots.length = s.slots.length ∧ ∀ j, s.cfgK ≤ j → t.slotRead j = s.slotRead j := by
  obtain ⟨_, _, x, bufs, hx, rfl⟩ := reconData_ok h
  refine ⟨writeRows_slots_length _ _ _, fun j hj => ?_⟩
  rw [slotRead_writeRows, if_neg]
  simp only [matmul_length, hx]
  omega

/-! The error statuses of the reconstruction functions. -/

theorem reconCorruption_ne_error_ok (s : State) : s.reconCorruption ≠ .error .ok := by
  rcases reconCorruption_cases s with ⟨_, h⟩ | ⟨_, _, h⟩ | ⟨_, _, h⟩ <;> simp [h]

theorem reconData_ne_error_ok (mask : List Bool) (s : State) : s.reconData mask ≠ .error .ok := by
  rcases reconData_cases mask s with ⟨_, h⟩ | ⟨_, _, h⟩ | ⟨_, _, _, h⟩ | ⟨_, _, _, _, h⟩ | ⟨_, _, _, x, _, h⟩ <;> simp [h]

/-- RECON_DISK fails with a status of its own, or is one of its two calls, both in turn, or nothing (R252). -/
theorem reconDisk_cases (s : State) :
    (∃ st, st ≠ .ok ∧ s.reconDisk = .error st) ∨
      (∃ u, s.reconData s.presence = .ok u ∧ s.reconDisk = u.reconCorruption) ∨
      s.reconDisk = s.reconCorruption ∨ s.reconDisk = .ok s := by
  simp only [State.reconDisk]
  split
  · exact .inl ⟨_, by decide, rfl⟩
  split
  · split
    · next st hst => exact .inl ⟨st, by rintro rfl; exact reconData_ne_error_ok _ _ hst, rfl⟩
    · next u hu => exact .inr (.inl ⟨u, hu, rfl⟩)
  split
  · exact .inr (.inr (.inl rfl))
  split
  · exact .inr (.inr (.inr rfl))
  · exact .inl ⟨_, by decide, rfl⟩

theorem reconDisk_ne_error_ok (s : State) : s.reconDisk ≠ .error .ok := by
  rcases reconDisk_cases s with ⟨st, hst, h⟩ | ⟨u, _, h⟩ | h | h <;> rw [h]
  · simpa using hst
  · exact reconCorruption_ne_error_ok u
  · exact reconCorruption_ne_error_ok s
  · simp

/-- A property that both calls keep is kept by RECON_DISK. -/
theorem reconDisk_induction {P : State → Prop} (hs : P s)
    (hdata : ∀ {mask u}, s.reconData mask = .ok u → P u)
    (hcorr : ∀ {u t}, P u → u.reconCorruption = .ok t → P t) (h : s.reconDisk = .ok t) : P t := by
  rcases reconDisk_cases s with ⟨_, _, h'⟩ | ⟨u, hu, h'⟩ | h' | h' <;> rw [h'] at h
  · cases h
  · exact hcorr (hdata hu) h
  · exact hcorr hs h
  · cases h; exact hs

theorem reconDisk_slots_length (h : s.reconDisk = .ok t) : t.slots.length = s.slots.length :=
  reconDisk_induction (P := fun u => u.slots.length = s.slots.length) rfl
    (fun hu => (reconData_keeps_parity hu).1) (fun hu ht => (reconCorruption_keeps_data ht).1.trans hu) h

/-! How a command can end. -/

/-- `r` is an error raised in `s`, or ends OK from a state with the property `P`. -/
def Ends (s : State) (P : State → Prop) (r : Result) : Prop :=
  (∃ st, st ≠ .ok ∧ r = raise st s) ∨ ∃ words payload t, P t ∧ r = complete words payload t

section
variable {P : State → Prop} {r : Result}

theorem ends_raise {st : Status} (hst : st ≠ .ok) : Ends s P (raise st s) := .inl ⟨st, hst, rfl⟩

theorem ends_complete {words : List Word} {payload : List Byte} (h : P t) : Ends s P (complete words payload t) :=
  .inr ⟨words, payload, t, h, rfl⟩

/-- A check that raises, and what follows it. -/
theorem ends_check {c : Prop} [Decidable c] {st : Status} (hst : st ≠ .ok) (h : ¬ c → Ends s P r) :
    Ends s P (if c then raise st s else r) := by
  split
  · exact ends_raise hst
  · next hc => exact h hc

theorem ends_requireConfigured (h : s.cfgValid = true → Ends s P r) : Ends s P (requireConfigured s r) := by
  rcases requireConfigured_cases (s := s) r with ⟨_, hr⟩ | ⟨hv, hr⟩ <;> rw [hr]
  · exact ends_raise (by decide)
  · exact h hv

theorem ends_finishRecon {r : Except Status State} (hr : r ≠ .error .ok)
    (h : ∀ u, r = .ok u → P { u with engineState := s.engineState.afterRecon u.slots }) :
    Ends s P (finishRecon r s) := by
  rcases finishRecon_cases r s with ⟨st, hst, hf⟩ | ⟨u, hu, hf⟩ <;> rw [hf]
  · exact ends_raise fun e => hr (e ▸ hst)
  · exact ends_complete (h u hu)

end

/-- `t` is what a reconstruction command leaves of `s` after writing `u`. -/
def ReconEffect (r : Except Status State) (s t : State) : Prop :=
  s.cfgValid = true ∧ ∃ u, r = .ok u ∧ t = { u with engineState := s.engineState.afterRecon u.slots }

/-- `t` is what command `i` leaves of `s` when it ends OK, before its response, with the checks it has passed. -/
def Effect (i : Instr) (s t : State) : Prop :=
  match i with
  | .raidConfig k m cap =>
    (1 ≤ k.toNat ∧ 1 ≤ m.toNat ∧ k.toNat + m.toNat ≤ 256 ∧ 1 ≤ cap.toNat ∧ cap.toNat ≤ s.params.maxLen) ∧
      t = s.configure k.toNat m.toNat cap.toNat
  | .encode bufs =>
    (s.cfgValid = true ∧ 1 ≤ firstLength bufs ∧ firstLength bufs ≤ s.cfgCap) ∧ t = s.encodeShards bufs
  | .dropShard index =>
    s.cfgValid = true ∧ t = { s.slotWrite index.toNat .absent with engineState := s.engineState.afterDrop }
  | .bitFlip index bitpos =>
    (s.cfgValid = true ∧ s.isPresent index.toNat = true) ∧
      t = { s.slotWrite index.toNat (.present (flipBit bitpos.toNat (s.buf index.toNat))) with
            engineState := s.engineState.afterFlip }
  | .reconCorruption => ReconEffect s.reconCorruption s t
  | .reconData mask => ReconEffect (s.reconData mask) s t
  | .reconDisk => ReconEffect s.reconDisk s t
  | _ => t = s

/-- Every command fails with nothing written but ENGINE_STATE, or ends OK with its effect (R260, R262). -/
theorem exec_ends (i : Instr) (s : State) : Ends s (Effect i s) (exec i s) := by
  cases i with
  | gfAdd a b => exact ends_complete rfl
  | gfMul a b => exact ends_complete rfl
  | gfDiv a b => exact ends_check (by decide) fun _ => ends_complete rfl
  | gfExp base power => exact ends_complete rfl
  | gfLog a => exact ends_check (by decide) fun _ => ends_complete rfl
  | matBuild rows cols => exact ends_check (by decide) fun _ => ends_complete rfl
  | matMul m n a bufs =>
    exact ends_check (by decide) fun _ => ends_check (by decide) fun _ => ends_check (by decide) fun _ =>
      ends_check (by decide) fun _ => ends_complete rfl
  | matInv rows cols a =>
    refine ends_check (by decide) fun _ => ends_check (by decide) fun _ => ?_
    split
    · exact ends_raise (by decide)
    · exact ends_complete rfl
  | vdmBuild rows cols => exact ends_check (by decide) fun _ => ends_complete rfl
  | raidConfig k m cap => exact ends_check (by decide) fun h => ends_complete ⟨by omega, rfl⟩
  | encode bufs =>
    exact ends_requireConfigured fun hv => ends_check (by decide) fun _ => ends_check (by decide) fun _ =>
      ends_check (by decide) fun h => ends_complete ⟨⟨hv, by omega, by omega⟩, rfl⟩
  | dropShard index =>
    exact ends_requireConfigured fun hv => ends_check (by decide) fun _ => ends_complete ⟨hv, rfl⟩
  | bitFlip index bitpos =>
    exact ends_requireConfigured fun hv => ends_check (by decide) fun _ => ends_check (by decide) fun hp =>
      ends_check (by decide) fun _ => ends_complete ⟨⟨hv, not_not.mp hp⟩, rfl⟩
  | detect => exact ends_requireConfigured fun _ => ends_complete rfl
  | verify =>
    refine ends_requireConfigured fun _ => ?_
    rcases verifyParity_cases s with ⟨_, h⟩ | ⟨_, h⟩ <;> rw [h]
    · exact ends_raise (by decide)
    · exact ends_complete rfl
  | reconCorruption =>
    exact ends_requireConfigured fun hv =>
      ends_finishRecon (reconCorruption_ne_error_ok s) fun u hu => ⟨hv, u, hu, rfl⟩
  | reconData mask =>
    exact ends_requireConfigured fun hv =>
      ends_finishRecon (reconData_ne_error_ok mask s) fun u hu => ⟨hv, u, hu, rfl⟩
  | reconDisk =>
    exact ends_requireConfigured fun hv => ends_finishRecon (reconDisk_ne_error_ok s) fun u hu => ⟨hv, u, hu, rfl⟩
  | readShard index =>
    refine ends_requireConfigured fun _ => ends_check (by decide) fun _ => ?_
    split <;> exact ends_complete rfl

/-! The invariant (R31). -/

/-- The invariant speaks of the architectural state and the parameters only. -/
theorem State.Inv.of_arch_eq (hs : s.Inv) (harch : t.arch = s.arch) (hp : t.params = s.params) : t.Inv := by
  obtain ⟨params, valid, k, m, cap, len, em, slots, _, _, _⟩ := s
  obtain ⟨params', valid', k', m', cap', len', em', slots', _, _, _⟩ := t
  simp only [State.arch, ArchState.mk.injEq] at harch hp
  obtain ⟨rfl, rfl, rfl, rfl, rfl, rfl, rfl⟩ := harch
  subst hp
  exact hs.imp (fun h => { h with }) (fun h => { h with })

theorem State.Inv.configured (h : s.Inv) (hv : s.cfgValid = true) : s.Configured := by
  rcases h with h | h
  · exact h
  · rw [h.invalid] at hv; cases hv

/-- New slots of the array's form keep a configured block configured. -/
theorem State.Configured.of_slots (hs : s.Configured) (h : SameButSlots s t)
    (hwf : Memory.wf t.slots s.total s.cfgShardLen = true) (hlen : (∃ i, t.isPresent i = true) → 1 ≤ s.cfgShardLen) :
    t.Configured := by
  obtain ⟨slots, rfl⟩ := h.exists_slots
  exact { hs with slotsWf := hwf, presentLen := hlen }

/-- A slot of a well-formed array has its length when it is present. -/
theorem Memory.length_buf {total len i : Nat} (h : Memory.wf s.slots total len = true) (hi : s.isPresent i = true) :
    (s.buf i).length = len := by
  have hread := slotRead_of_isPresent hi
  have hlt := lt_length_of_isPresent hi
  refine ((Memory.wf_iff _ _ _).mp h).2 _ ?_ _ hread
  simp [State.slotRead, List.getD_eq_getElem?_getD, hlt]

/-- Writing a slot with Absent, or over a present slot with bytes of the array's length, keeps a configured block. -/
theorem State.Configured.slotWrite (hs : s.Configured) (i : Nat) (v : Slot)
    (hv : v ≠ .absent → s.isPresent i = true) (hlen : ∀ buf, v = .present buf → buf.length = s.cfgShardLen) :
    (s.slotWrite i v).Configured := by
  refine hs.of_slots ((SameButSlots.rfl' s).slotWrite i v) (Memory.wf_slotWrite hs.slotsWf i v hlen) ?_
  rintro ⟨j, hj⟩
  obtain ⟨buf, hb⟩ := (isPresent_iff j).mp hj
  rw [slotRead_slotWrite] at hb
  split at hb
  · exact hs.presentLen ⟨i, hv (by simp [hb])⟩
  · exact hs.presentLen ⟨j, (isPresent_iff j).mpr ⟨buf, hb⟩⟩

/-- Every parity row recomputed on a configured block has the shard length. -/
theorem length_recomputedParity_row (hs : s.Configured) {j : Nat} (hj : j < s.cfgM) :
    (matRow s.recomputedParity j).length = s.cfgShardLen := by
  refine matRow_matmul_length _ _ _ _ ?_
  simp only [List.length_take, List.length_drop, hs.emBuilt, vdm_length, State.total]
  omega

theorem State.Configured.reconCorruption (hs : s.Configured) (h : s.reconCorruption = .ok t) : t.Configured := by
  refine hs.of_slots (reconCorruption_sameButSlots h) ?_ ?_ <;> obtain ⟨hdata, valid, rfl⟩ := reconCorruption_ok h
  · exact Memory.wf_repairParity _ _ s hs.slotsWf fun j hj => length_recomputedParity_row hs hj
  · exact fun _ => hs.presentLen ⟨0, hdata 0 hs.kPos⟩

theorem State.Configured.reconData (hs : s.Configured) {mask : List Bool} (h : s.reconData mask = .ok t) :
    t.Configured := by
  refine hs.of_slots (reconData_sameButSlots h) ?_ ?_ <;> obtain ⟨hk, hpresent, x, bufs, _, rfl⟩ := reconData_ok h
  · exact Memory.wf_writeRows _ _ s hs.slotsWf fun row hrow => matmul_row_length _ _ _ hrow
  · obtain ⟨i, hi⟩ := List.exists_mem_of_length_pos (Nat.lt_of_lt_of_le hs.kPos hk)
    exact fun _ => hs.presentLen ⟨i, hpresent i hi⟩

theorem State.Configured.reconDisk (hs : s.Configured) (h : s.reconDisk = .ok t) : t.Configured :=
  reconDisk_induction (P := State.Configured) hs hs.reconData (fun hu => hu.reconCorruption) h

/-- RAID_CONFIG's state is configured, whatever was there before. -/
theorem configured_configure {k m cap : Nat} (hk : 1 ≤ k) (hm : 1 ≤ m) (ht : k + m ≤ 256) (hc : 1 ≤ cap)
    (hmax : cap ≤ s.params.maxLen) (hword : cap < 2 ^ 32) : (s.configure k m cap).Configured where
  valid := rfl
  kPos := hk
  mPos := hm
  totalLe := ht
  capPos := hc
  capLe := hmax
  capWord := hword
  lenLe := Nat.zero_le _
  slotsWf := Memory.wf_replicate _ _
  presentLen := by
    rintro ⟨i, hi⟩
    have hlt := lt_length_of_isPresent hi
    obtain ⟨buf, hb⟩ := (isPresent_iff i).mp hi
    simp_all [State.slotRead, List.getD_eq_getElem?_getD]
  emBuilt := rfl

/-- Writing as many rows as there are slots leaves exactly those rows. -/
theorem slots_writeRows_all {rows : Mat} (h : rows.length = s.slots.length) :
    (s.writeRows 0 rows).slots = rows.map .present := by
  refine List.ext_getElem (by simp [writeRows_slots_length, h]) fun j h1 h2 => ?_
  have hj : j < rows.length := by simpa using h2
  have hread := slotRead_writeRows 0 rows s j
  simpa [State.slotRead, List.getD_eq_getElem?_getD, h1, hj, ← h] using hread

theorem encodeShards_eq (bufs : List Buffer) (s : State) :
    s.encodeShards bufs =
      { s with
        slots := (s.writeRows 0 (matmul s.params.gfPoly s.em bufs (firstLength bufs))).slots
        cfgShardLen := firstLength bufs
        engineState := .encoded } := by
  unfold State.encodeShards
  rw [writeRows_sameButSlots 0 _ s]

/-- ENCODE writes every slot with a buffer of the new length. -/
theorem wf_encodeShards (hs : s.Configured) (bufs : List Buffer) :
    Memory.wf (s.encodeShards bufs).slots s.total (firstLength bufs) = true := by
  have hslots : s.slots.length = s.total := ((Memory.wf_iff _ _ _).mp hs.slotsWf).1
  have hrows : (matmul s.params.gfPoly s.em bufs (firstLength bufs)).length = s.slots.length := by
    rw [matmul_length, hs.emBuilt, vdm_length, hslots]
  rw [encodeShards_eq, Memory.wf_iff]
  dsimp only
  rw [slots_writeRows_all hrows]
  refine ⟨by rw [List.length_map, hrows, hslots], ?_⟩
  simp only [List.mem_map]
  rintro _ ⟨row, hrow, rfl⟩ _ ⟨⟩
  exact matmul_row_length _ _ _ hrow

theorem configured_encodeShards (hs : s.Configured) {bufs : List Buffer} (hpos : 1 ≤ firstLength bufs)
    (hcap : firstLength bufs ≤ s.cfgCap) : (s.encodeShards bufs).Configured := by
  have hwf := wf_encodeShards hs bufs
  rw [encodeShards_eq] at hwf ⊢
  exact { hs with lenLe := hcap, slotsWf := hwf, presentLen := fun _ => hpos }

/-- What a command leaves when it ends OK meets the invariant. -/
theorem Effect.inv {i : Instr} (hs : s.Inv) (h : Effect i s t) : t.Inv := by
  cases i with
  | raidConfig k m cap =>
    obtain ⟨⟨hk, hm, ht, hc, hmax⟩, rfl⟩ := h
    exact .inl (configured_configure hk hm ht hc hmax cap.isLt)
  | encode bufs =>
    obtain ⟨⟨hv, hpos, hcap⟩, rfl⟩ := h
    exact .inl (configured_encodeShards (hs.configured hv) hpos hcap)
  | dropShard index =>
    obtain ⟨hv, rfl⟩ := h
    have hw := (hs.configured hv).slotWrite index.toNat .absent (absurd rfl) (by simp)
    exact State.Inv.of_arch_eq (.inl hw) rfl rfl
  | bitFlip index bitpos =>
    obtain ⟨⟨hv, hp⟩, rfl⟩ := h
    have hlen := Memory.length_buf (hs.configured hv).slotsWf hp
    have hw := (hs.configured hv).slotWrite index.toNat (.present (flipBit bitpos.toNat (s.buf index.toNat)))
      (fun _ => hp) (by rintro _ ⟨⟩; rw [length_flipBit, hlen])
    exact State.Inv.of_arch_eq (.inl hw) rfl rfl
  | reconCorruption =>
    obtain ⟨hv, u, hu, rfl⟩ := h
    exact State.Inv.of_arch_eq (.inl ((hs.configured hv).reconCorruption hu)) rfl rfl
  | reconData mask =>
    obtain ⟨hv, u, hu, rfl⟩ := h
    exact State.Inv.of_arch_eq (.inl ((hs.configured hv).reconData hu)) rfl rfl
  | reconDisk =>
    obtain ⟨hv, u, hu, rfl⟩ := h
    exact State.Inv.of_arch_eq (.inl ((hs.configured hv).reconDisk hu)) rfl rfl
  | _ => cases h; exact hs

theorem exec_inv {i : Instr} (hs : s.Inv) (h : exec i s = .next t) : t.Inv := by
  rcases exec_ends i s with ⟨st, _, he⟩ | ⟨words, payload, u, hu, he⟩ <;> rw [he] at h <;> cases h
  · exact hs.of_arch_eq rfl rfl
  · exact (hu.inv hs).of_arch_eq rfl rfl

theorem applyReset_unconfigured (rest : List HostEvent) (s : State) : (s.applyReset rest).Unconfigured where
  invalid := rfl
  kZero := rfl
  mZero := rfl
  capZero := rfl
  lenZero := rfl
  noSlots := rfl

/-! Who writes what (R33). -/

/-- A successful reconstruction command writes the slots and ENGINE_STATE. -/
theorem ReconEffect.exists_eq {r : Except Status State} (hr : ∀ {u}, r = .ok u → SameButSlots s u)
    (h : ReconEffect r s t) : ∃ slots e, t = { s with slots := slots, engineState := e } := by
  obtain ⟨_, u, hu, rfl⟩ := h
  obtain ⟨slots, rfl⟩ := (hr hu).exists_slots
  exact ⟨slots, _, rfl⟩

/-- A command other than RAID_CONFIG writes at most the slots, ENGINE_STATE and SHARD_LEN, which only ENCODE writes. -/
theorem Effect.exists_eq {i : Instr} (h : Effect i s t) (hi : ∀ k m cap, i ≠ .raidConfig k m cap) :
    ∃ len slots e, t = { s with cfgShardLen := len, slots := slots, engineState := e } ∧
      ((∀ bufs, i ≠ .encode bufs) → len = s.cfgShardLen) := by
  cases i with
  | raidConfig k m cap => exact absurd rfl (hi k m cap)
  | encode bufs => exact ⟨_, _, _, h.2.trans (encodeShards_eq bufs s), fun hne => absurd rfl (hne bufs)⟩
  | dropShard index => exact ⟨_, _, _, h.2, fun _ => rfl⟩
  | bitFlip index bitpos => exact ⟨_, _, _, h.2, fun _ => rfl⟩
  | reconCorruption =>
    obtain ⟨slots, e, rfl⟩ := ReconEffect.exists_eq reconCorruption_sameButSlots h
    exact ⟨_, slots, e, rfl, fun _ => rfl⟩
  | reconData mask =>
    obtain ⟨slots, e, rfl⟩ := ReconEffect.exists_eq reconData_sameButSlots h
    exact ⟨_, slots, e, rfl, fun _ => rfl⟩
  | reconDisk =>
    obtain ⟨slots, e, rfl⟩ := ReconEffect.exists_eq reconDisk_sameButSlots h
    exact ⟨_, slots, e, rfl, fun _ => rfl⟩
  | _ => exact ⟨_, _, _, h, fun _ => rfl⟩

/-- No command writes the port or the parameters, and its response is added at its end only. -/
theorem Effect.keeps_ports_params {i : Instr} (h : Effect i s t) :
    t.port = s.port ∧ t.params = s.params ∧ t.responses = s.responses := by
  by_cases hi : ∀ k m cap, i ≠ .raidConfig k m cap
  · obtain ⟨len, slots, e, rfl, _⟩ := h.exists_eq hi
    exact ⟨rfl, rfl, rfl⟩
  · push Not at hi
    obtain ⟨k, m, cap, rfl⟩ := hi
    obtain ⟨_, rfl⟩ := h
    exact ⟨rfl, rfl, rfl⟩

theorem slotsKept_of_slots_eq (i : Instr) (h : t.slots = s.slots) : SlotsKept i s t := by
  have hlen : t.slots.length = s.slots.length := congrArg _ h
  have hread (j : Nat) : t.slotRead j = s.slotRead j := congrArg (·.getD j .absent) h
  cases i with
  | raidConfig k m cap => trivial
  | encode bufs => trivial
  | dropShard index => exact ⟨hlen, fun j _ => hread j⟩
  | bitFlip index bitpos => exact ⟨hlen, fun j _ => hread j⟩
  | reconCorruption => exact ⟨hlen, fun j _ => hread j⟩
  | reconData mask => exact ⟨hlen, fun j _ => hread j⟩
  | reconDisk => exact hlen
  | _ => exact h

theorem slotsKept_slotWrite (i : Nat) (v : Slot) (s : State) :
    (s.slotWrite i v).slots.length = s.slots.length ∧ ∀ j, j ≠ i → (s.slotWrite i v).slotRead j = s.slotRead j :=
  ⟨by simp, fun j hj => slotRead_slotWrite_other i j v hj.symm⟩

/-- A command that ends OK keeps the slots it may not write, its response included. -/
theorem Effect.slotsKept {i : Instr} (h : Effect i s t) (r : Frame) : SlotsKept i s (t.respond r) := by
  cases i with
  | raidConfig k m cap => trivial
  | encode bufs => trivial
  | dropShard index => obtain ⟨_, rfl⟩ := h; exact slotsKept_slotWrite index.toNat _ s
  | bitFlip index bitpos => obtain ⟨_, rfl⟩ := h; exact slotsKept_slotWrite index.toNat _ s
  | reconCorruption => obtain ⟨_, u, hu, rfl⟩ := h; exact reconCorruption_keeps_data (t := u) hu
  | reconData mask => obtain ⟨_, u, hu, rfl⟩ := h; exact reconData_keeps_parity (t := u) hu
  | reconDisk => obtain ⟨_, u, hu, rfl⟩ := h; exact reconDisk_slots_length (t := u) hu
  | _ => cases h; exact slotsKept_of_slots_eq _ rfl

/-! The commands that access no state (R33). -/

/-- `r` and `r'` answer the same response in `s` and in `s'`, and nothing else changes. -/
def AnswersAlike (s s' : State) (r r' : Result) : Prop :=
  ∃ f, r = .next (answered s f) ∧ r' = .next (answered s' f)

theorem answersAlike_complete (words : List Word) (payload : List Byte) (s s' : State) :
    AnswersAlike s s' (complete words payload s) (complete words payload s') := ⟨_, rfl, rfl⟩

theorem answersAlike_raise (s s' : State) {st : Status} (h1 : st ≠ .insufficientShards)
    (h2 : st ≠ .dataCorruptionUnrecoverable) : AnswersAlike s s' (raise st s) (raise st s') :=
  ⟨_, raise_eq_of_plain s h1 h2, raise_eq_of_plain s' h1 h2⟩

theorem answersAlike_ite {s s' : State} {r1 r2 r1' r2' : Result} (c : Prop) [Decidable c]
    (h1 : AnswersAlike s s' r1 r1') (h2 : AnswersAlike s s' r2 r2') :
    AnswersAlike s s' (if c then r1 else r2) (if c then r1' else r2') := by
  split
  · exact h1
  · exact h2

/-- A command that accesses no state answers alike in all states with the same parameters. -/
theorem exec_answersAlike {i : Instr} (hi : IsPure i) {s s' : State} (hp : s.params = s'.params) :
    AnswersAlike s s' (exec i s) (exec i s') := by
  have fails {st : Status} (h : st ≠ .insufficientShards ∧ st ≠ .dataCorruptionUnrecoverable := by decide) :
      AnswersAlike s s' (raise st s) (raise st s') := answersAlike_raise s s' h.1 h.2
  have ends (words : List Word) (payload : List Byte) :
      AnswersAlike s s' (complete words payload s) (complete words payload s') := answersAlike_complete words payload s s'
  cases i with
  | gfAdd a b => exact ends _ _
  | gfMul a b => simp only [exec, execGfMul, hp]; exact ends _ _
  | gfDiv a b => simp only [exec, execGfDiv, hp]; exact answersAlike_ite _ fails (ends _ _)
  | gfExp base power => simp only [exec, execGfExp, hp]; exact ends _ _
  | gfLog a => simp only [exec, execGfLog, hp]; exact answersAlike_ite _ fails (ends _ _)
  | matBuild rows cols => simp only [exec, execMatBuild, hp]; exact answersAlike_ite _ fails (ends _ _)
  | matMul m n a bufs =>
    simp only [exec, execMatMul, hp]
    exact answersAlike_ite _ fails (answersAlike_ite _ fails (answersAlike_ite _ fails
      (answersAlike_ite _ fails (ends _ _))))
  | matInv rows cols a =>
    simp only [exec, execMatInv, hp]
    refine answersAlike_ite _ fails (answersAlike_ite _ fails ?_)
    cases ginvert s'.params.gfPoly s'.params.pivotMode rows.toNat (reshape rows.toNat cols.toNat a) with
    | none => exact fails
    | some x => exact ends _ _
  | vdmBuild rows cols => simp only [exec, execVdmBuild, hp]; exact answersAlike_ite _ fails (ends _ _)
  | _ => exact hi.elim

/-! ENGINE_STATE (R34). -/

theorem EngineState.afterDrop_eq (e : EngineState) :
    e.afterDrop = if e = .encoded ∨ e = .corrupted ∨ e = .degraded then .degraded else e := by
  cases e <;> rfl

theorem EngineState.afterFlip_eq (e : EngineState) : e.afterFlip = if e = .encoded then .corrupted else e := by
  cases e <;> rfl

theorem EngineState.afterRecon_eq (e : EngineState) (slots : List Slot) :
    e.afterRecon slots = if e = .unrecoverable then e else if Slot.absent ∈ slots then .degraded else .encoded := by
  simp [EngineState.afterRecon]

/-- The table's rows for a command that fails. -/
theorem engineStateAfter_error (i : Instr) {st : Status} (hst : st ≠ .ok) (e : EngineState) (slots : List Slot) :
    engineStateAfter i (statusWord st) e slots = e.afterError st := by
  cases st with
  | ok => exact absurd rfl hst
  | _ => rfl

/-- The table's rows for a command that ends OK. -/
theorem Effect.engineState {i : Instr} (h : Effect i s t) :
    t.engineState = engineStateAfter i 0x00 s.engineState t.slots := by
  cases i with
  | raidConfig k m cap => obtain ⟨_, rfl⟩ := h; rfl
  | encode bufs => obtain ⟨_, rfl⟩ := h; rfl
  | dropShard index => obtain ⟨_, rfl⟩ := h; exact EngineState.afterDrop_eq _
  | bitFlip index bitpos => obtain ⟨_, rfl⟩ := h; exact EngineState.afterFlip_eq _
  | reconCorruption => obtain ⟨_, u, _, rfl⟩ := h; exact EngineState.afterRecon_eq _ _
  | reconData mask => obtain ⟨_, u, _, rfl⟩ := h; exact EngineState.afterRecon_eq _ _
  | reconDisk => obtain ⟨_, u, _, rfl⟩ := h; exact EngineState.afterRecon_eq _ _
  | _ => cases h; rfl

/-- The table leaves `Unrecoverable` only for ENCODE and RAID_CONFIG. -/
theorem engineStateAfter_unrecoverable {i : Instr} {status : Word} {slots : List Slot}
    (h : engineStateAfter i status .unrecoverable slots ≠ .unrecoverable) :
    (∃ bufs, i = .encode bufs) ∨ ∃ k m cap, i = .raidConfig k m cap := by
  cases i with
  | encode bufs => exact .inl ⟨bufs, rfl⟩
  | raidConfig k m cap => exact .inr ⟨k, m, cap, rfl⟩
  | _ => unfold engineStateAfter at h; simp at h

end Sys2Proof.Machine

namespace Sys2Proof.Proofs

open Sys2Proof.Machine Sys2Proof.Claims

/-- Settles O13, by what a step can be and what a command can leave. -/
theorem stepKeepsTheInvariant : Obligations.StepKeepsTheInvariant := by
  intro s t hs h
  rcases step_cases s with ⟨_, hstep⟩ | ⟨rest, _, hstep⟩ | ⟨ws, rest, e, _, _, hstep⟩ | ⟨ws, rest, i, _, _, hstep⟩ <;>
    rw [hstep] at h
  · cases h; exact hs
  · cases h; exact .inr (applyReset_unconfigured rest s)
  · cases h; exact hs.of_arch_eq rfl rfl
  · exact exec_inv (s := { s with port := rest }) (hs.of_arch_eq rfl rfl) h

/-- Settles O14: after reset the block is unconfigured, every configuration register 0. -/
theorem resetMeetsTheInvariant : Obligations.ResetMeetsTheInvariant :=
  .inr (applyReset_unconfigured [] State.reset)

/-- Settles O8: the reset input, alone or cutting a frame off, is `applyReset`. -/
theorem resetLeavesTheSpecsValues : Obligations.ResetLeavesTheSpecsValues := by
  refine ⟨⟨rfl, rfl, rfl, rfl, rfl, rfl, rfl, rfl, rfl⟩, fun s rest ws hport => ?_⟩
  have hstep : step s = .next (s.applyReset rest) := hport.elim step_reset step_cutFrame
  exact ⟨_, hstep, rfl, rfl, rfl, rfl, rfl, rfl, rfl, rfl, rfl, rfl⟩

/-- Settles O16: a failing command writes none of this state, a successful one what its effect writes. -/
theorem commandsWriteOnlyTheirListedState : Obligations.CommandsWriteOnlyTheirListedState := by
  intro i s t h
  rcases exec_ends i s with ⟨st, _, he⟩ | ⟨words, payload, u, hu, he⟩ <;> rw [he] at h <;> cases h
  · exact ⟨fun _ => ⟨rfl, rfl, rfl, rfl, rfl⟩, fun _ _ => rfl, slotsKept_of_slots_eq i rfl, rfl, rfl⟩
  · obtain ⟨hport, hparams, _⟩ := hu.keeps_ports_params
    refine ⟨fun hi => ?_, fun hi hne => ?_, hu.slotsKept _, hport, hparams⟩ <;>
      obtain ⟨len, slots, e, rfl, hlen⟩ := hu.exists_eq hi
    · exact ⟨rfl, rfl, rfl, rfl, rfl⟩
    · exact hlen hne

/-- Settles O17: a command that accesses no state reads the parameters alone. -/
theorem pureCommandsDependOnNoState : Obligations.PureCommandsDependOnNoState :=
  fun _ _ _ hi hp => exec_answersAlike hi hp

/-- Settles O20: R34's rows for errors and its rows for commands that end OK. -/
theorem engineStateFollowsTheTable : Obligations.EngineStateFollowsTheTable := by
  intro i s
  rcases exec_ends i s with ⟨st, hst, he⟩ | ⟨words, payload, u, hu, he⟩
  · exact ⟨_, statusWord st, [], he, rfl, (engineStateAfter_error i hst _ _).symm⟩
  · obtain ⟨_, _, hresp⟩ := hu.keeps_ports_params
    refine ⟨_, 0x00, words ++ pack payload, he, ?_, hu.engineState⟩
    rw [State.respond_responses, hresp, okResponse, statusWord_ok]

/-- Settles O21: a step that is no reset is idle, refuses its frame, or runs a command, which follows R34's table. -/
theorem unrecoverableIsLeftOnlyByEncodeConfigOrReset :
    Obligations.UnrecoverableIsLeftOnlyByEncodeConfigOrReset := by
  intro s t hs h hleft
  rcases step_cases s with ⟨_, hstep⟩ | ⟨rest, hport | ⟨ws, hport⟩, _⟩ | ⟨ws, rest, e, _, _, hstep⟩ |
    ⟨ws, rest, i, hport, hd, hstep⟩
  · rw [hstep] at h; cases h; exact absurd hs hleft
  · exact .inl ⟨rest, hport⟩
  · exact .inr (.inl ⟨ws, rest, hport⟩)
  · rw [hstep] at h; cases h; exact absurd hs hleft
  · obtain ⟨t', status, words, ht', _, hengine⟩ := engineStateFollowsTheTable i { s with port := rest }
    obtain rfl : t = t' := by rw [hstep, ht'] at h; cases h; rfl
    simp only [hs] at hengine
    refine .inr (.inr ⟨ws, rest, hport, ?_⟩)
    rcases engineStateAfter_unrecoverable (hengine ▸ hleft) with ⟨bufs, rfl⟩ | ⟨k, m, cap, rfl⟩
    · exact .inl ⟨bufs, hd⟩
    · exact .inr ⟨k, m, cap, hd⟩

end Sys2Proof.Proofs
end

section
/-! PROOFS, family 20_memory. DETECT, VERIFY and READ_SHARD answer from the configuration and the disk array, which a
response leaves as they are; so a second one finds what the first one found. -/

namespace Sys2Proof.Machine

open Sys2Proof.Claims

/-- An engine command answers alike in two states of the same CFG.VALID when its body does (R191). -/
theorem answersAlike_requireConfigured {s s' : State} {r r' : Result} (hv : s'.cfgValid = s.cfgValid)
    (h : AnswersAlike s s' r r') : AnswersAlike s s' (requireConfigured s r) (requireConfigured s' r') := by
  simp only [requireConfigured, hv]
  exact answersAlike_ite _ h (answersAlike_raise s s' (by decide) (by decide))

/-- A command that only reads answers alike before and after any response has left the block (R58). -/
theorem exec_read_answersAlike {i : Instr} (hi : i = .detect ∨ i = .verify ∨ ∃ index, i = .readShard index)
    (s : State) (f : Frame) : AnswersAlike s (answered s f) (exec i s) (exec i (answered s f)) := by
  rcases hi with rfl | rfl | ⟨index, rfl⟩ <;> refine answersAlike_requireConfigured rfl ?_
  case inl => exact answersAlike_complete _ _ s _
  case inr.inl =>
    have hsame : (answered s f).verifyParity = s.verifyParity := rfl
    rw [hsame]
    rcases verifyParity_cases s with ⟨_, h⟩ | ⟨_, h⟩ <;> rw [h]
    · exact answersAlike_raise s _ (by decide) (by decide)
    · exact answersAlike_complete _ _ s _
  case inr.inr =>
    refine answersAlike_ite _ (answersAlike_raise s _ (by decide) (by decide)) ?_
    have hsame : (answered s f).slotRead index.toNat = s.slotRead index.toNat := rfl
    rw [hsame]
    cases s.slotRead index.toNat with
    | absent => exact answersAlike_complete _ _ s _
    | present buf => exact answersAlike_complete _ _ s _

end Sys2Proof.Machine

namespace Sys2Proof.Proofs

open Sys2Proof.Machine Sys2Proof.Claims

/-- Settles O19: the command answers some `r`, and answers alike after `r`, so it answers `r` again. -/
theorem readsChangeNothingAndRepeat : Obligations.ReadsChangeNothingAndRepeat := by
  intro i s hi
  obtain ⟨r, hfirst, _⟩ := exec_read_answersAlike hi s []
  obtain ⟨r', hagain, hrepeat⟩ := exec_read_answersAlike hi s r
  obtain rfl : r = r' := by simpa [answered] using hfirst.symm.trans hagain
  exact ⟨r, hfirst, hrepeat⟩

/-- Settles O5: the step at a frame that decodes is `exec` of its command. -/
theorem stepRunsTheDecodedCommand : Obligations.StepRunsTheDecodedCommand :=
  fun _ _ _ _ hport hd => step_command hport hd

end Sys2Proof.Proofs
end

section
/-! PROOFS, family 30_encoding. A word list is `pack` of a payload exactly when it has its length and zero padding, so a
frame decodes exactly when it is laid out as its format says (`Format.Spells`), and it decodes to the command that its
argument words and its payload spell. The statements on `decode` and `encode` follow from that layout. -/

namespace Sys2Proof.Machine

/-! Bytes of words (R75). -/

theorem wordByte_toNat (w : Word) (k : Nat) : (wordByte w k).toNat = w.toNat / 2 ^ (8 * k) % 256 := by
  rw [wordByte, BitVec.extractLsb'_toNat, Nat.shiftRight_eq_div_pow]

theorem wordByte_eq_zero_iff (w : Word) (k : Nat) : wordByte w k = 0x00 ↔ w.toNat / 2 ^ (8 * k) % 256 = 0 := by
  rw [← wordByte_toNat, ← BitVec.toNat_inj]
  rfl

/-- A word has no bits beside its four bytes. -/
theorem wordBytes_injective : Function.Injective wordBytes := by
  intro v w h
  simp only [wordBytes, List.cons.injEq, ← BitVec.toNat_inj, wordByte_toNat] at h
  obtain ⟨h0, h1, h2, h3, -⟩ := h
  apply BitVec.eq_of_toNat_eq
  omega

theorem unpack_injective : Function.Injective unpack := by
  intro vs
  induction vs with
  | nil =>
    rintro (_ | ⟨w, ws⟩) h
    · rfl
    · simp [wordBytes] at h
  | cons v vs ih =>
    rintro (_ | ⟨w, ws⟩) h
    · simp [wordBytes] at h
    · simp only [unpack_cons] at h
      obtain ⟨hw, hws⟩ := List.append_inj h rfl
      rw [wordBytes_injective hw, ih hws]

/-- Byte n of the unpacked words is byte n mod 4 of word n div 4. -/
theorem unpack_getD (ws : List Word) (n : Nat) : (unpack ws).getD n 0x00 = wordByte (ws.getD (n / 4) 0) (n % 4) := by
  induction ws generalizing n with
  | nil => simp [wordByte]
  | cons w ws ih =>
    match n with
    | 0 | 1 | 2 | 3 => rfl
    | m + 4 =>
      rw [Nat.add_div_right m (by decide), Nat.add_mod_right]
      exact ih m

/-! Words that are packed payloads (R73, R75). -/

theorem length_le_four_mul_wordsFor (p : Nat) : p ≤ 4 * wordsFor p := by
  simp only [wordsFor]; omega

/-- Words are a packed payload of p bytes exactly when there are ceil(p/4) of them and the bytes past p are zero. -/
theorem eq_pack_iff (ws : List Word) (payload : List Byte) :
    ws = pack payload ↔ ws.length = wordsFor payload.length ∧ (unpack ws).take payload.length = payload ∧
      ∀ b ∈ (unpack ws).drop payload.length, b = 0x00 := by
  constructor
  · rintro rfl
    refine ⟨pack_length payload, by simp [unpack_pack], ?_⟩
    rw [unpack_pack, List.drop_left]
    exact fun b hb => List.eq_of_mem_replicate hb
  · rintro ⟨hlen, htake, hzero⟩
    apply unpack_injective
    have hdrop : (unpack ws).drop payload.length =
        List.replicate (4 * wordsFor payload.length - payload.length) 0x00 :=
      List.eq_replicate_iff.mpr ⟨by simp [hlen], hzero⟩
    calc unpack ws = (unpack ws).take payload.length ++ (unpack ws).drop payload.length :=
        (List.take_append_drop _ _).symm
      _ = unpack (pack payload) := by rw [htake, hdrop, unpack_pack]

/-- The same, for any payload of p bytes. -/
theorem exists_eq_pack_iff (ws : List Word) (p : Nat) :
    (∃ payload, payload.length = p ∧ ws = pack payload) ↔
      ws.length = wordsFor p ∧ ∀ b ∈ (unpack ws).drop p, b = 0x00 := by
  constructor
  · rintro ⟨payload, rfl, h⟩
    obtain ⟨hlen, -, hzero⟩ := (eq_pack_iff _ _).mp h
    exact ⟨hlen, hzero⟩
  · rintro ⟨hlen, hzero⟩
    have hp : ((unpack ws).take p).length = p := by simp [hlen, length_le_four_mul_wordsFor]
    refine ⟨(unpack ws).take p, hp, (eq_pack_iff _ _).mpr ?_⟩
    rw [hp]
    exact ⟨hlen, rfl, hzero⟩

/-- Byte n of the packed words is byte n of the payload; past the payload both read 0x00. -/
theorem pack_getD (bytes : List Byte) (n : Nat) :
    wordByte ((pack bytes).getD (n / 4) 0) (n % 4) = bytes.getD n 0x00 := by
  rw [← unpack_getD, unpack_pack]
  obtain hn | hn := lt_or_ge n bytes.length
  · exact List.getD_append _ _ _ _ hn
  · rw [List.getD_append_right _ _ _ _ hn, List.getD_eq_default _ _ hn, List.getD_eq_getElem?_getD,
      List.getElem?_getD_replicate_default_eq]

/-! Zero padding as a number (R75). -/

theorem wordBytes_drop_zero_iff (w : Word) {r : Nat} (hr : r < 4) :
    (∀ b ∈ (wordBytes w).drop r, b = 0x00) ↔ w.toNat / 2 ^ (8 * r) = 0 := by
  have hlt := w.isLt
  interval_cases r <;>
    simp only [wordBytes, List.drop_succ_cons, List.drop_zero, List.forall_mem_cons, List.not_mem_nil, false_imp_iff,
      implies_true, and_true, wordByte_eq_zero_iff] <;> omega

/-- Bytes past p in ceil(p/4) words are the high bytes of the last word. -/
theorem padding_zero_iff {words : List Word} {p : Nat} (hlen : words.length = wordsFor p) :
    (∀ b ∈ (unpack words).drop p, b = 0x00) ↔
      (p % 4 ≠ 0 → (words.getD (words.length - 1) 0).toNat / 2 ^ (8 * (p % 4)) = 0) := by
  rw [wordsFor] at hlen
  by_cases hr : p % 4 = 0
  · have hall : (unpack words).drop p = [] := List.drop_eq_nil_of_le (by rw [unpack_length]; omega)
    simp [hr, hall]
  · obtain rfl | ⟨init, last, rfl⟩ := words.eq_nil_or_concat'
    · simp at hlen; omega
    have hp : p = (unpack init).length + p % 4 := by simp at hlen ⊢; omega
    have hdrop : (unpack (init ++ [last])).drop p = (wordBytes last).drop (p % 4) := by
      rw [unpack, List.flatMap_append, ← unpack, hp, List.drop_length_add_append, ← hp]
      simp
    rw [hdrop, wordBytes_drop_zero_iff last (Nat.mod_lt _ (by decide))]
    simp [hr]

/-! Byte operands, Booleans and counts as words (R72, R82, R83). -/

@[simp] theorem byteBool_boolByte (b : Bool) : byteBool (boolByte b) = b := by cases b <;> decide

theorem boolByte_le_one (b : Bool) : boolByte b ≤ 0x01 := by cases b <;> decide

theorem boolByte_byteBool {b : Byte} (h : b ≤ 0x01) : boolByte (byteBool b) = b := by
  have hb : b = 0x00 ∨ b = 0x01 := by bv_omega
  rcases hb with rfl | rfl <;> decide

@[simp] theorem countWord_toNat (w : Word) : countWord w.toNat = w := by simp [countWord]

theorem toNat_countWord {n : Nat} (h : fitsWord n = true) : (countWord n).toNat = n := by
  simpa [countWord] using Nat.mod_eq_of_lt (of_decide_eq_true h)

theorem fitsWord_toNat (w : Word) : fitsWord w.toNat = true := decide_eq_true w.isLt

@[simp] theorem zext32_toNat (b : Byte) : (zext32 b).toNat = b.toNat :=
  BitVec.toNat_setWidth_of_le (by decide)

theorem byteArg_toNat (ws : Frame) (i : Nat) : (byteArg ws i).toNat = natArg ws i % 256 := by
  simp [byteArg, natArg, BitVec.extractLsb'_toNat]

/-- Bits [31:8] of an argument word are zero exactly when it is below 256. -/
theorem byteArgReserved_eq_zero_iff (ws : Frame) (i : Nat) : byteArgReserved ws i = 0 ↔ natArg ws i < 256 := by
  rw [← BitVec.toNat_inj, byteArgReserved, BitVec.extractLsb'_toNat, Nat.shiftRight_eq_div_pow, natArg]
  have hlt := (wordArg ws i).isLt
  change _ = 0 ↔ _
  omega

/-- A byte operand whose reserved bits are zero is its whole word. -/
theorem zext32_byteArg {ws : Frame} {i : Nat} (h : byteArgReserved ws i = 0) :
    zext32 (byteArg ws i) = wordArg ws i := by
  have hlt := (byteArgReserved_eq_zero_iff ws i).mp h
  exact BitVec.eq_of_toNat_eq (by rw [zext32_toNat, byteArg_toNat, Nat.mod_eq_of_lt hlt, natArg])

/-- An argument word that holds a byte, read as a byte operand. -/
theorem byteArg_of_zext32 {ws : Frame} {i : Nat} {b : Byte} (h : wordArg ws i = zext32 b) :
    byteArg ws i = b ∧ byteArgReserved ws i = 0 := by
  have hnat : natArg ws i = b.toNat := by rw [natArg, h, zext32_toNat]
  rw [byteArgReserved_eq_zero_iff, ← BitVec.toNat_inj, byteArg_toNat, hnat]
  exact ⟨Nat.mod_eq_of_lt b.isLt, b.isLt⟩

/-! Argument words by place. -/

/-- `n` words of a frame from place `start` on, read one by one. -/
theorem take_drop_eq_map_wordArg {ws : Frame} {start n : Nat} (h : start + n ≤ ws.length) :
    (ws.drop start).take n = (List.range n).map fun i => wordArg ws (start + i) := by
  refine List.ext_getElem (by simp; omega) fun i h1 h2 => ?_
  have hi : start + i < ws.length := by simp at h2; omega
  simp [wordArg, hi]

/-! Concatenated buffers (R74). -/

@[simp] theorem splitBuffers_flatten (bufs : List Buffer) :
    splitBuffers (bufs.map List.length) bufs.flatten = bufs := by
  induction bufs with
  | nil => rfl
  | cons b bufs ih => simp [splitBuffers, ih]

theorem flatten_splitBuffers {lens : List Nat} {bytes : List Byte} (h : bytes.length = lens.sum) :
    (splitBuffers lens bytes).flatten = bytes := by
  induction lens generalizing bytes with
  | nil => exact (List.eq_nil_of_length_eq_zero h).symm
  | cons n lens ih => simp [splitBuffers, ih (bytes := bytes.drop n) (by simp [h])]

theorem map_length_splitBuffers {lens : List Nat} {bytes : List Byte} (h : bytes.length = lens.sum) :
    (splitBuffers lens bytes).map List.length = lens := by
  induction lens generalizing bytes with
  | nil => rfl
  | cons n lens ih => simp [splitBuffers, ih (bytes := bytes.drop n) (by simp [h]), h]

end Sys2Proof.Machine

namespace Sys2Proof

open Sys2Proof.Machine Sys2Proof.Claims

/-! The header (R71). -/

theorem toNat_headerWord (op : Opcode) : (headerWord op).toNat = op.code.toNat * 2 ^ 24 := by cases op <;> decide

/-- OPC in bits [31:24] and RSV = 0 in bits [23:0] make the header word. -/
theorem eq_headerWord_iff_toNat (h : Word) (op : Opcode) :
    h = headerWord op ↔ h.toNat % 2 ^ 24 = 0 ∧ h.toNat / 2 ^ 24 = op.code.toNat := by
  rw [← BitVec.toNat_inj, toNat_headerWord]
  omega

/-- A header word with RSV = 0 is the header of the command its OPC names. -/
theorem eq_headerWord_iff (h : Word) (op : Opcode) :
    h = headerWord op ↔ Opcode.ofCode? (headerOpc h) = some op ∧ headerRsv h = 0 := by
  constructor
  · rintro rfl
    exact ⟨by simp, by simp⟩
  · rintro ⟨hop, hrsv⟩
    have hcode : h.toNat / 2 ^ 24 % 256 = op.code.toNat := by
      rw [Opcode.code_of_ofCode? hop, headerOpc, BitVec.extractLsb'_toNat, Nat.shiftRight_eq_div_pow]
    have hlow : h.toNat % 2 ^ 24 = 0 := by
      simpa [headerRsv, BitVec.extractLsb'_toNat] using congrArg BitVec.toNat hrsv
    have hlt := h.isLt
    exact (eq_headerWord_iff_toNat h op).mpr ⟨hlow, by omega⟩

/-! What it is for a frame to decode (R80). -/

/-- The words of `ws` after its header are laid out as format `f` says, with `payload` as the payload bytes (R72 to R76,
R83). -/
structure Format.Spells (f : Format) (ws : Frame) (payload : List Byte) : Prop where
  start_le : f.payloadStart ws ≤ ws.length
  payload_length : payload.length = f.payloadLength ws
  payload_words : ws.drop (f.payloadStart ws) = pack payload
  operand_bits : ∀ i ∈ f.byteOperands, byteArgReserved ws i = 0
  mask_bytes : f = .fMK → ∀ b ∈ payload, b ≤ 0x01

theorem Format.argCount_lt_payloadStart (f : Format) (ws : Frame) : f.argCount < f.payloadStart ws := by
  cases f <;> simp only [Format.argCount, Format.payloadStart] <;> omega

/-- The length checks and the padding check of R80 find exactly the words that are a packed payload. -/
theorem Format.drop_eq_pack_iff {f : Format} {ws : Frame} (hstart : f.payloadStart ws ≤ ws.length)
    (payload : List Byte) :
    payload.length = f.payloadLength ws ∧ ws.drop (f.payloadStart ws) = pack payload ↔
      ws.length = f.frameLength ws ∧
        (unpack (ws.drop (f.payloadStart ws))).take (f.payloadLength ws) = payload ∧
        ∀ b ∈ (unpack (ws.drop (f.payloadStart ws))).drop (f.payloadLength ws), b = 0x00 := by
  have hlen : ws.length = f.frameLength ws ↔ (ws.drop (f.payloadStart ws)).length = wordsFor (f.payloadLength ws) := by
    rw [List.length_drop, Format.frameLength]; omega
  rw [hlen]
  constructor
  · rintro ⟨hp, hpack⟩
    exact hp ▸ (eq_pack_iff _ _).mp hpack
  · rintro ⟨hwords, htake, hzero⟩
    have hp : payload.length = f.payloadLength ws := by
      simp [← htake, hwords, length_le_four_mul_wordsFor]
    exact ⟨hp, (eq_pack_iff _ _).mpr (hp ▸ ⟨hwords, htake, hzero⟩)⟩

theorem decodeBody_eq_ok_iff (op : Opcode) (ws : Frame) (i : Instr) :
    decodeBody op ws = .ok i ↔ ∃ payload, op.format.Spells ws payload ∧ assemble op ws payload = i := by
  have hargs := op.format.argCount_lt_payloadStart ws
  constructor
  · intro h
    simp only [decodeBody] at h
    split_ifs at h with _ hstart hlen hpad hops hmask
    have hstart := not_lt.mp hstart
    obtain ⟨hp, hpack⟩ := (Format.drop_eq_pack_iff hstart _).mpr ⟨not_not.mp hlen, rfl, by simpa using hpad⟩
    exact ⟨_, ⟨hstart, hp, hpack, by simpa using hops, by simpa using hmask⟩, by simpa using h⟩
  · rintro ⟨payload, ⟨hstart, hp, hpack, hbits, hmask⟩, rfl⟩
    obtain ⟨hlen, htake, hzero⟩ := (Format.drop_eq_pack_iff hstart _).mp ⟨hp, hpack⟩
    simp only [decodeBody, htake]
    rw [if_neg (by omega), if_neg (by omega), if_neg (by simpa using hlen), if_neg (by simpa using hzero),
      if_neg (by simpa using hbits), if_neg (by simpa using hmask)]

/-- A frame decodes to `i` exactly when it is a header of R78 and words its format allows, and `i` is what they spell. -/
theorem decode_eq_ok_iff (ws : Frame) (i : Instr) :
    decode ws = .ok i ↔ ∃ op payload, ws.head? = some (headerWord op) ∧ op.format.Spells ws payload ∧
      assemble op ws payload = i := by
  cases ws with
  | nil => simp [decode]
  | cons h rest =>
    simp only [List.head?_cons, Option.some.injEq, eq_headerWord_iff, decode]
    cases Opcode.ofCode? (headerOpc h) with
    | none => simp
    | some op =>
      by_cases hrsv : headerRsv h = 0
      · simp [hrsv, decodeBody_eq_ok_iff]
      · simp only [ne_eq, hrsv, not_false_eq_true, if_true]
        simp

/-! Buffers and their count and length words (R74, R77). -/

theorem buffersFit_iff (bufs : List Buffer) :
    buffersFit bufs = true ↔ fitsWord bufs.length = true ∧ ∀ n ∈ bufs.map List.length, fitsWord n = true := by
  simp [buffersFit]

/-- The count and length words of the buffers that given length words cut from the payload. -/
theorem bufferWords_splitBuffers {words : List Word} {bytes : List Byte}
    (h : bytes.length = (words.map BitVec.toNat).sum) :
    bufferWords (splitBuffers (words.map BitVec.toNat) bytes) = countWord words.length :: words := by
  have hlens := map_length_splitBuffers h
  have hcount : (splitBuffers (words.map BitVec.toNat) bytes).length = words.length := by
    simpa using congrArg List.length hlens
  have hwords : (splitBuffers (words.map BitVec.toNat) bytes).map (fun b => countWord b.length) = words := by
    simpa [Function.comp_def] using congrArg (List.map countWord) hlens
  rw [bufferWords, hcount, hwords]

theorem buffersFit_splitBuffers {words : List Word} {bytes : List Byte}
    (h : bytes.length = (words.map BitVec.toNat).sum) (hcount : fitsWord words.length = true) :
    buffersFit (splitBuffers (words.map BitVec.toNat) bytes) = true := by
  have hlens := map_length_splitBuffers h
  refine (buffersFit_iff _).mpr ⟨?_, ?_⟩
  · rwa [← List.length_map (f := List.length), hlens, List.length_map]
  · rw [hlens]
    simp [fitsWord_toNat]

/-- The length words of buffers that fit, read back. -/
theorem map_toNat_lengthWords {bufs : List Buffer} (h : buffersFit bufs = true) :
    (bufs.map fun b => countWord b.length).map BitVec.toNat = bufs.map List.length := by
  obtain ⟨-, hlens⟩ := (buffersFit_iff bufs).mp h
  rw [List.map_map]
  exact List.map_congr_left fun b hb => toNat_countWord (hlens _ (List.mem_map_of_mem hb))

/-! The command that a frame spells has the frame's words. -/

section
variable {op : Opcode} {ws : Frame} {payload : List Byte}

theorem opcode_assemble (op : Opcode) (ws : Frame) (payload : List Byte) : (assemble op ws payload).opcode = op := by
  cases op <;> rfl

/-- The length words of a frame that has them all. -/
theorem length_lengthWords {start n : Nat} (h : start + n ≤ ws.length) : ((ws.drop start).take n).length = n := by
  simp; omega

/-- F-MM: A's bytes come first in the payload, then the buffers'. -/
theorem Format.Spells.matMul_lengths (h : Format.fMM.Spells ws payload) :
    (payload.take (natArg ws 1 * natArg ws 2)).length = natArg ws 1 * natArg ws 2 ∧
      (payload.drop (natArg ws 1 * natArg ws 2)).length = (Format.fMM.bufferLengths ws).sum := by
  have hp : payload.length = natArg ws 1 * natArg ws 2 + (Format.fMM.bufferLengths ws).sum := h.payload_length
  simp [hp]

theorem payload_assemble (h : op.format.Spells ws payload) : (assemble op ws payload).payload = payload := by
  have hp := h.payload_length
  cases op
  case matMul =>
    simp only [assemble, Instr.payload]
    rw [flatten_splitBuffers h.matMul_lengths.2, List.take_append_drop]
  case encode => exact flatten_splitBuffers hp
  case matInv => rfl
  case reconData =>
    simp only [assemble, Instr.payload, List.map_map]
    exact (List.map_congr_left fun b hb => boolByte_byteBool (h.mask_bytes rfl b hb)).trans (List.map_id _)
  all_goals exact (List.eq_nil_of_length_eq_zero hp).symm

theorem args_assemble (hhead : ws.head? = some (headerWord op)) (h : op.format.Spells ws payload) :
    headerWord op :: (assemble op ws payload).args = ws.take (op.format.payloadStart ws) := by
  have hstart := h.start_le
  have hp := h.payload_length
  have hbits := h.operand_bits
  have h0 : wordArg ws 0 = headerWord op := by
    simp [wordArg, List.getD_eq_getElem?_getD, ← List.head?_eq_getElem?, hhead]
  have htake {n : Nat} (hn : n ≤ ws.length) : ws.take n = (List.range n).map (wordArg ws) := by
    simpa using take_drop_eq_map_wordArg (start := 0) (by simpa using hn)
  rw [← h0]
  cases op
  case' matMul => have hwords := bufferWords_splitBuffers h.matMul_lengths.2
  case' encode => have hwords := bufferWords_splitBuffers hp
  case matMul | encode =>
    simp only [assemble, Instr.args, Opcode.format, Format.payloadStart] at hstart ⊢
    rw [Format.bufferLengths, hwords, length_lengthWords hstart, List.take_add, htake (by omega)]
    simp [natArg, List.range_succ]
  case reconData =>
    simp only [assemble, Instr.args, Opcode.format] at hstart hp ⊢
    rw [htake hstart, List.length_map, hp]
    simp [Format.payloadStart, Format.payloadLength, Format.argCount, natArg, List.range_succ]
  all_goals
    simp only [Opcode.format] at hstart hbits ⊢
    rw [htake hstart]
    simp only [Format.byteOperands, List.mem_cons, List.not_mem_nil, or_false, forall_eq_or_imp, forall_eq] at hbits
    simp [assemble, Instr.args, Format.payloadStart, Format.argCount, List.range_succ, zext32_byteArg, hbits]

theorem wellFormed_assemble (h : op.format.Spells ws payload) : (assemble op ws payload).wellFormed = true := by
  have hstart := h.start_le
  have hp := h.payload_length
  cases op
  case matMul =>
    obtain ⟨hmat, hbufs⟩ := h.matMul_lengths
    have hfit := buffersFit_splitBuffers hbufs (by rw [length_lengthWords hstart]; exact fitsWord_toNat _)
    exact Bool.and_eq_true_iff.mpr ⟨beq_iff_eq.mpr hmat, hfit⟩
  case encode => exact buffersFit_splitBuffers hp (by rw [length_lengthWords hstart]; exact fitsWord_toNat _)
  case matInv => exact beq_iff_eq.mpr hp
  case reconData =>
    simp only [assemble, Instr.wellFormed, List.length_map]
    rw [hp]
    exact fitsWord_toNat _
  all_goals rfl

/-- The frame of the command that `ws` spells is `ws`. -/
theorem encode_assemble (hhead : ws.head? = some (headerWord op)) (h : op.format.Spells ws payload) :
    encode (assemble op ws payload) = ws :=
  calc encode (assemble op ws payload)
      = (headerWord op :: (assemble op ws payload).args) ++ pack payload := by
        rw [encode, opcode_assemble, payload_assemble h, List.cons_append]
    _ = ws := by rw [args_assemble hhead h, ← h.payload_words, List.take_append_drop]

end

/-! The frame of a well-formed command spells it. -/

section
variable {m n : Word} {a : List Byte} {bufs : List Buffer}

theorem natArg_encode_matMul (h : buffersFit bufs = true) : natArg (encode (.matMul m n a bufs)) 3 = bufs.length :=
  toNat_countWord ((buffersFit_iff bufs).mp h).1

theorem natArg_encode_encode (h : buffersFit bufs = true) : natArg (encode (.encode bufs)) 1 = bufs.length :=
  toNat_countWord ((buffersFit_iff bufs).mp h).1

theorem bufferLengths_encode_matMul (h : buffersFit bufs = true) :
    Format.fMM.bufferLengths (encode (.matMul m n a bufs)) = bufs.map List.length := by
  rw [← map_toNat_lengthWords h, Format.bufferLengths, natArg_encode_matMul h]
  exact congrArg _ (List.take_left' (by simp))

theorem bufferLengths_encode_encode (h : buffersFit bufs = true) :
    Format.fEN.bufferLengths (encode (.encode bufs)) = bufs.map List.length := by
  rw [← map_toNat_lengthWords h, Format.bufferLengths, natArg_encode_encode h]
  exact congrArg _ (List.take_left' (by simp))

end

/-- What the well-formedness check says of a matrix multiplication. -/
theorem wellFormed_matMul_iff (m n : Word) (a : List Byte) (bufs : List Buffer) :
    (Instr.matMul m n a bufs).wellFormed = true ↔ a.length = m.toNat * n.toNat ∧ buffersFit bufs = true := by
  simp [Instr.wellFormed]

theorem payloadStart_encode {i : Instr} (h : i.wellFormed = true) :
    i.opcode.format.payloadStart (encode i) = 1 + i.args.length := by
  cases i
  case matMul m n a bufs =>
    obtain ⟨-, hbufs⟩ := (wellFormed_matMul_iff m n a bufs).mp h
    simp [Instr.opcode, Opcode.format, Format.payloadStart, natArg_encode_matMul hbufs, Instr.args, bufferWords]
    omega
  case encode bufs =>
    simp [Instr.opcode, Opcode.format, Format.payloadStart, natArg_encode_encode h, Instr.args, bufferWords]
    omega
  all_goals rfl

theorem payloadLength_encode {i : Instr} (h : i.wellFormed = true) :
    i.opcode.format.payloadLength (encode i) = i.payload.length := by
  cases i
  case matMul m n a bufs =>
    obtain ⟨hmat, hbufs⟩ := (wellFormed_matMul_iff m n a bufs).mp h
    simp only [Instr.opcode, Opcode.format, Format.payloadLength, bufferLengths_encode_matMul hbufs, Instr.payload,
      List.length_append, List.length_flatten, hmat]
    rfl
  case matInv rows cols a => exact (beq_iff_eq.mp h).symm
  case encode bufs =>
    simp only [Instr.opcode, Opcode.format, Format.payloadLength, bufferLengths_encode_encode h, Instr.payload,
      List.length_flatten]
  case reconData mask => exact (toNat_countWord h).trans (List.length_map _).symm
  all_goals rfl

theorem byteOperands_encode (i : Instr) : ∀ k ∈ i.opcode.format.byteOperands, byteArgReserved (encode i) k = 0 := by
  have hbyte {k : Nat} {b : Byte} (h : wordArg (encode i) k = zext32 b) : byteArgReserved (encode i) k = 0 :=
    (byteArg_of_zext32 h).2
  cases i
  case gfAdd | gfMul | gfDiv => exact List.forall_mem_cons.mpr ⟨hbyte rfl, List.forall_mem_singleton.mpr (hbyte rfl)⟩
  case gfExp | gfLog => exact List.forall_mem_singleton.mpr (hbyte rfl)
  all_goals exact List.forall_mem_nil _

theorem maskBytes_encode (i : Instr) (h : i.opcode.format = .fMK) : ∀ b ∈ i.payload, b ≤ 0x01 := by
  cases i
  case reconData mask =>
    simp only [Instr.payload, List.forall_mem_map]
    exact fun b _ => boolByte_le_one b
  all_goals cases h

theorem spells_encode {i : Instr} (h : i.wellFormed = true) : i.opcode.format.Spells (encode i) i.payload where
  start_le := by rw [payloadStart_encode h, encode]; simp; omega
  payload_length := (payloadLength_encode h).symm
  payload_words := by
    rw [payloadStart_encode h, encode, Nat.add_comm, List.drop_succ_cons, List.drop_left]
  operand_bits := byteOperands_encode i
  mask_bytes := maskBytes_encode i

theorem assemble_encode {i : Instr} (h : i.wellFormed = true) : assemble i.opcode (encode i) i.payload = i := by
  have hbyte {k : Nat} {b : Byte} (h : wordArg (encode i) k = zext32 b) : byteArg (encode i) k = b :=
    (byteArg_of_zext32 h).1
  cases i
  case gfAdd => exact congrArg₂ Instr.gfAdd (hbyte rfl) (hbyte rfl)
  case gfMul => exact congrArg₂ Instr.gfMul (hbyte rfl) (hbyte rfl)
  case gfDiv => exact congrArg₂ Instr.gfDiv (hbyte rfl) (hbyte rfl)
  case gfExp => exact congrArg₂ Instr.gfExp (hbyte rfl) rfl
  case gfLog => exact congrArg Instr.gfLog (hbyte rfl)
  case matMul m n a bufs =>
    obtain ⟨hmat, hbufs⟩ := (wellFormed_matMul_iff m n a bufs).mp h
    have hlen : natArg (encode (.matMul m n a bufs)) 1 * natArg (encode (.matMul m n a bufs)) 2 = a.length := hmat.symm
    simp only [Instr.opcode, assemble, Instr.payload, hlen, List.take_left, List.drop_left,
      bufferLengths_encode_matMul hbufs, splitBuffers_flatten]
    rfl
  case encode bufs =>
    simp only [Instr.opcode, assemble, Instr.payload, bufferLengths_encode_encode h, splitBuffers_flatten]
  case reconData mask => simp [Instr.opcode, assemble, Instr.payload, Function.comp_def]
  all_goals rfl

/-! Legal frames on the numbers of R71 to R80. -/

theorem formatOf_code (op : Opcode) : formatOf op.code.toNat = some op.format := by cases op <;> rfl

/-- The numbers with a format are the assigned OPC values (R78, R79). -/
theorem formatOf_eq_some_iff (n : Nat) (f : Format) :
    formatOf n = some f ↔ ∃ op : Opcode, n = op.code.toNat ∧ op.format = f := by
  by_cases h : ∃ op : Opcode, n = op.code.toNat
  · obtain ⟨op, rfl⟩ := h
    rw [formatOf_code, Option.some.injEq]
    refine ⟨fun hf => ⟨op, rfl, hf⟩, ?_⟩
    rintro ⟨op', hcode, rfl⟩
    rw [← Option.some.injEq, ← formatOf_code, ← formatOf_code, hcode]
  · have hrows : ∀ op ∈ opcodeRows, n ≠ op.code.toNat := fun op _ hop => h ⟨op, hop⟩
    have hnone : formatOf n = none := by
      simp [opcodeRows, Opcode.code] at hrows
      simp [formatOf, hrows]
    rw [hnone]
    exact iff_of_false (by simp) fun ⟨op, hop, _⟩ => h ⟨op, hop⟩

theorem legalHeader_iff (ws : Frame) (f : Format) :
    (1 ≤ ws.length ∧ w ws 0 % 2 ^ 24 = 0 ∧ formatOf (w ws 0 / 2 ^ 24) = some f) ↔
      ∃ op, ws.head? = some (headerWord op) ∧ op.format = f := by
  cases ws with
  | nil => simp
  | cons h rest =>
    simp [w, formatOf_eq_some_iff, eq_headerWord_iff_toNat, and_assoc]

theorem payloadFits_iff (start p : Nat) (ws : Frame) :
    PayloadFits start p ws ↔ start ≤ ws.length ∧ ∃ payload, payload.length = p ∧ ws.drop start = pack payload := by
  have hlen : ws.length = start + (p + 3) / 4 ↔ start ≤ ws.length ∧ (ws.drop start).length = wordsFor p := by
    rw [List.length_drop, wordsFor]; omega
  rw [exists_eq_pack_iff, PayloadFits, hlen, and_assoc]
  refine and_congr_right fun hstart => and_congr_right fun hwords => ?_
  rw [padding_zero_iff hwords]
  refine imp_congr_right fun hp => ?_
  have hlast : start + ((ws.drop start).length - 1) = ws.length - 1 := by
    rw [wordsFor] at hwords
    rw [List.length_drop] at hwords ⊢
    omega
  rw [w, ← hlast]
  simp [List.getD_eq_getElem?_getD]

/-- Byte n of a payload that starts at word `start`, as a number (R75). -/
theorem payload_getD_toNat {ws : Frame} {start : Nat} {payload : List Byte} (h : ws.drop start = pack payload)
    (n : Nat) :
    (payload.getD n 0x00).toNat = w ws (start + n / 4) / 2 ^ (8 * (n % 4)) % 256 := by
  rw [← pack_getD, ← h, wordByte_toNat, w]
  simp [List.getD_eq_getElem?_getD]

theorem forall_payload_le_one_iff {ws : Frame} {start : Nat} {payload : List Byte} (h : ws.drop start = pack payload) :
    (∀ b ∈ payload, b ≤ 0x01) ↔
      ∀ n < payload.length, w ws (start + n / 4) / 2 ^ (8 * (n % 4)) % 256 ≤ 1 := by
  rw [List.forall_mem_iff_forall_getElem]
  refine forall₂_congr fun n hn => ?_
  rw [← payload_getD_toNat h, List.getD_eq_getElem _ _ hn, BitVec.le_def]
  rfl

/-- A frame has a payload that a format allows, said on the numbers of its words. -/
theorem exists_spells_iff (f : Format) (ws : Frame) :
    (∃ payload, f.Spells ws payload) ↔
      PayloadFits (f.payloadStart ws) (f.payloadLength ws) ws ∧ (∀ i ∈ f.byteOperands, w ws i < 256) ∧
        (f = .fMK → ∀ n < f.payloadLength ws, w ws (f.payloadStart ws + n / 4) / 2 ^ (8 * (n % 4)) % 256 ≤ 1) := by
  have hbits : (∀ i ∈ f.byteOperands, w ws i < 256) ↔ ∀ i ∈ f.byteOperands, byteArgReserved ws i = 0 :=
    forall₂_congr fun i _ => (byteArgReserved_eq_zero_iff ws i).symm
  rw [payloadFits_iff, hbits]
  constructor
  · rintro ⟨payload, hstart, hp, hpack, hops, hmask⟩
    refine ⟨⟨hstart, payload, hp, hpack⟩, hops, fun hf => ?_⟩
    exact hp ▸ (forall_payload_le_one_iff hpack).mp (hmask hf)
  · rintro ⟨⟨hstart, payload, hp, hpack⟩, hops, hmask⟩
    exact ⟨payload, hstart, hp, hpack, hops, fun hf => (forall_payload_le_one_iff hpack).mpr (hp.symm ▸ hmask hf)⟩

theorem sum_lengthWords (start nb : Nat) (ws : Frame) :
    (((ws.drop start).take nb).map BitVec.toNat).sum = sumLengths start nb ws := by
  induction nb with
  | zero => rfl
  | succ nb ih =>
    rw [sumLengths, List.range_succ, List.map_append, List.sum_append, ← sumLengths, ← ih, List.take_add_one]
    cases h : ws[start + nb]? <;> simp [w, h]

theorem payloadFits_zero_iff (start : Nat) (ws : Frame) : PayloadFits start 0 ws ↔ ws.length = start := by
  simp [PayloadFits]

theorem natArg_eq_w (ws : Frame) (i : Nat) : natArg ws i = w ws i := rfl

/-- The bodies that are legal by R76, R77 and R79 are those with a payload the format allows. -/
theorem legalBody_iff (f : Format) (ws : Frame) : LegalBody f ws ↔ ∃ payload, f.Spells ws payload := by
  rw [exists_spells_iff]
  cases f
  case fMM | fEN =>
    rw [Format.payloadLength, Format.bufferLengths, sum_lengthWords]
    simp [LegalBody, Format.payloadStart, Format.byteOperands, natArg_eq_w]
  all_goals
    simp [LegalBody, Format.payloadStart, Format.payloadLength, Format.byteOperands, Format.argCount,
      payloadFits_zero_iff, natArg_eq_w]

end Sys2Proof

namespace Sys2Proof.Proofs

open Sys2Proof.Machine Sys2Proof.Claims

/-- Settles O1: the frame of a well-formed command spells the command. -/
theorem decodeOfEncodeIsTheCommand : Obligations.DecodeOfEncodeIsTheCommand :=
  fun i h => (decode_eq_ok_iff _ i).mpr ⟨i.opcode, i.payload, rfl, spells_encode h, assemble_encode h⟩

/-- Settles O2: the command that a frame spells is well formed and has the frame's header, arguments and payload. -/
theorem encodeOfDecodeIsTheFrame : Obligations.EncodeOfDecodeIsTheFrame := by
  intro ws i h
  obtain ⟨op, payload, hhead, hspells, rfl⟩ := (decode_eq_ok_iff ws i).mp h
  exact ⟨encode_assemble hhead hspells, wellFormed_assemble hspells⟩

/-- Settles O3: a legal header is the header of a command, a legal body has a payload its format allows. -/
theorem frameDecodesExactlyWhenLegal : Obligations.FrameDecodesExactlyWhenLegal := by
  intro ws
  calc (∃ i, decode ws = .ok i)
      ↔ ∃ op, ws.head? = some (headerWord op) ∧ ∃ payload, op.format.Spells ws payload := by
        simp only [decode_eq_ok_iff]
        constructor
        · rintro ⟨_, op, payload, hhead, hspells, _⟩
          exact ⟨op, hhead, payload, hspells⟩
        · rintro ⟨op, hhead, payload, hspells⟩
          exact ⟨_, op, payload, hhead, hspells, rfl⟩
    _ ↔ ∃ f, (∃ op, ws.head? = some (headerWord op) ∧ op.format = f) ∧ LegalBody f ws := by
        simp only [← legalBody_iff]
        constructor
        · rintro ⟨op, hhead, hbody⟩
          exact ⟨_, ⟨op, hhead, rfl⟩, hbody⟩
        · rintro ⟨_, ⟨op, hhead, rfl⟩, hbody⟩
          exact ⟨op, hhead, hbody⟩
    _ ↔ LegalFrame ws := by simp only [← legalHeader_iff, LegalFrame, and_assoc, exists_and_left]

/-- Settles O7: the words of packed bytes unpack to these bytes and zero padding. -/
theorem payloadPackingIsLittleEndianZeroPadded : Obligations.PayloadPackingIsLittleEndianZeroPadded :=
  ⟨fun bytes => ⟨pack_length bytes, pack_getD bytes⟩, unpack_getD⟩

/-- Settles O4: a frame that is not legal decodes to an error, whatever its name. -/
theorem illegalFrameIsAnsweredAndChangesNothing : Obligations.IllegalFrameIsAnsweredAndChangesNothing := by
  intro s ws rest hport hillegal
  cases hd : decode ws with
  | ok i => exact absurd ((frameDecodesExactlyWhenLegal ws).mp ⟨i, hd⟩) hillegal
  | error e => rw [step_illegal hport hd]; exact raise_eq_of_plain _ (by decide) (by decide)

/-- Settles O6: each frame is the encoding of the command beside it, which is well formed. -/
theorem specFramesDecodeAsWritten : Obligations.SpecFramesDecodeAsWritten := by
  have hdec {ws : Frame} {i : Instr} (hws : encode i = ws) (hi : i.wellFormed = true) : decode ws = .ok i :=
    hws ▸ decodeOfEncodeIsTheCommand i hi
  refine ⟨hdec ?_ ?_, hdec ?_ ?_, hdec ?_ ?_, hdec ?_ ?_, hdec ?_ ?_, hdec ?_ ?_, hdec ?_ ?_, hdec ?_ ?_⟩ <;> decide

end Sys2Proof.Proofs
end

section
/-! PROOFS, family 40_gf_arithmetic. A byte stands for the residue class of its polynomial modulo p(x). Different bytes have
different classes and `gmul` is the product of classes, so the laws of the ring are the laws of the bytes; under legal
parameters the powers of GF_GEN are the nonzero bytes, so each of these has the 255th power 1. -/

namespace Sys2Proof.Machine

open Sys2Proof.Claims Polynomial

variable {poly : BitVec 9}

/-! Bit vectors as polynomials over GF(2) (R110). -/

/-- The coefficients of one summand of `polyOf`. -/
theorem coeff_ite_X_pow (c : Bool) (k i : Nat) :
    (if c then X ^ k else 0 : (ZMod 2)[X]).coeff i = if i = k ∧ c then 1 else 0 := by
  cases c <;> simp [coeff_X_pow]

theorem coeff_polyOf {n : Nat} (v : BitVec n) (i : Nat) : (polyOf v).coeff i = if v.getLsbD i then 1 else 0 := by
  simp only [polyOf, finsetSum_coeff, coeff_ite_X_pow, ite_and, Finset.sum_ite_eq, Finset.mem_range]
  by_cases hi : i < n
  · simp [hi]
  · simp [hi, BitVec.getLsbD_of_ge v i (by omega)]

theorem degree_polyOf_lt {n : Nat} (v : BitVec n) : (polyOf v).degree < n := by
  refine (degree_lt_iff_coeff_zero _ _).mpr fun i hi => ?_
  simp [coeff_polyOf, BitVec.getLsbD_of_ge v i hi]

@[simp] theorem polyOf_zero {n : Nat} : polyOf (0#n) = 0 := by
  ext i; simp [coeff_polyOf]

@[simp] theorem polyOf_one : polyOf 1#8 = 1 := by
  ext i; simp [coeff_polyOf, coeff_one, eq_comm]

/-- XOR is the addition of polynomials (R112). -/
@[simp] theorem polyOf_xor {n : Nat} (v u : BitVec n) : polyOf (v ^^^ u) = polyOf v + polyOf u := by
  ext i
  rw [coeff_add, coeff_polyOf, coeff_polyOf, coeff_polyOf, BitVec.getLsbD_xor]
  cases v.getLsbD i <;> cases u.getLsbD i <;> decide

theorem polyOf_eq_zero_iff {n : Nat} (v : BitVec n) : polyOf v = 0 ↔ v = 0 := by
  refine ⟨fun h => BitVec.eq_of_getLsbD_eq fun i _ => ?_, fun h => h ▸ polyOf_zero⟩
  have hi := coeff_polyOf v i
  rw [h, coeff_zero] at hi
  cases hv : v.getLsbD i <;> simp_all

/-- The lowest bit, and the bits above it shifted down: the loop of R113 reads b so. -/
theorem polyOf_eq_lowBit_add {n : Nat} (v : BitVec n) :
    polyOf v = (if v.getLsbD 0 then X ^ 0 else 0) + X * polyOf (v >>> 1) := by
  ext i
  rw [coeff_add, coeff_ite_X_pow, coeff_polyOf]
  cases i with
  | zero => simp
  | succ i => simp [coeff_X_mul, coeff_polyOf, add_comm]

/-- A shift to the left multiplies by x and drops the highest bit. -/
theorem polyOf_shiftLeft_one {n : Nat} (v : BitVec (n + 1)) :
    polyOf (v <<< 1) = X * polyOf v + if v.getLsbD n then X ^ (n + 1) else 0 := by
  ext i
  rw [coeff_add, coeff_polyOf, BitVec.getLsbD_shiftLeft, coeff_ite_X_pow]
  cases i with
  | zero => simp
  | succ i =>
    rw [coeff_X_mul, coeff_polyOf]
    rcases Nat.lt_trichotomy i n with hi | rfl | hi
    · simp [hi, hi.ne]
    · simp [CharTwo.add_self_eq_zero]
    · simp [hi.ne', hi.not_gt, BitVec.getLsbD_of_ge v i hi]

/-- The modulus of R113: x^8 and the low bits of GF_POLY, whatever bit 8 of GF_POLY is. -/
noncomputable def modulus (poly : BitVec 9) : (ZMod 2)[X] := X ^ 8 + polyOf (poly.setWidth 8)

theorem degree_modulus (poly : BitVec 9) : (modulus poly).degree = 8 :=
  (degree_add_eq_left_of_degree_lt ((degree_polyOf_lt _).trans_eq (degree_X_pow 8).symm)).trans (degree_X_pow 8)

/-- A GF_POLY of degree 8 is the modulus. -/
theorem polyOf_eq_modulus (h : poly.getLsbD 8 = true) : polyOf poly = modulus poly := by
  ext i
  rw [modulus, coeff_add, coeff_polyOf, coeff_polyOf, coeff_X_pow, BitVec.getLsbD_setWidth]
  rcases Nat.lt_trichotomy i 8 with hi | rfl | hi
  · simp [hi, hi.ne]
  · simp [h]
  · simp [hi.ne', hi.not_gt, BitVec.getLsbD_of_ge poly i hi]

/-- `xtime` multiplies by x and takes the modulus off on a carry. -/
theorem polyOf_xtime (poly : BitVec 9) (a : Byte) :
    polyOf (xtime poly a) = X * polyOf a + if a.getLsbD 7 then modulus poly else 0 := by
  unfold xtime modulus
  split
  · rw [polyOf_xor, polyOf_shiftLeft_one, if_pos ‹_›]; ring
  · rw [polyOf_shiftLeft_one, if_neg ‹_›]

/-! The ring of residues modulo p(x), in which the bytes are computed with. -/

/-- The residue class of a byte's polynomial. -/
noncomputable def residue (poly : BitVec 9) (a : Byte) : AdjoinRoot (modulus poly) :=
  AdjoinRoot.mk (modulus poly) (polyOf a)

@[simp] theorem residue_zero : residue poly 0#8 = 0 := by
  rw [residue, polyOf_zero, map_zero]

@[simp] theorem residue_one : residue poly 1#8 = 1 := by
  rw [residue, polyOf_one, map_one]

@[simp] theorem residue_xor (a b : Byte) : residue poly (a ^^^ b) = residue poly a + residue poly b := by
  simp only [residue, polyOf_xor, map_add]

/-- Different bytes have different residues: their polynomials are of degree below 8. -/
theorem residue_injective (poly : BitVec 9) : Function.Injective (residue poly) := by
  intro a b h
  have hdvd : modulus poly ∣ polyOf (a ^^^ b) := by
    rw [polyOf_xor, ← CharTwo.sub_eq_add]
    exact AdjoinRoot.mk_eq_mk.mp h
  have hzero := eq_zero_of_dvd_of_degree_lt hdvd (degree_modulus poly ▸ degree_polyOf_lt _)
  exact BitVec.xor_eq_zero_iff.mp ((polyOf_eq_zero_iff _).mp hzero)

theorem residue_xtime (a : Byte) : residue poly (xtime poly a) = AdjoinRoot.root (modulus poly) * residue poly a := by
  have hcarry : AdjoinRoot.mk (modulus poly) (if a.getLsbD 7 then modulus poly else 0) = 0 := by
    split <;> simp
  rw [residue, polyOf_xtime, map_add, hcarry, add_zero, map_mul, AdjoinRoot.mk_X, residue]

/-- The loop's result when only the lowest n bits of b are left: what it has, and a times these bits. -/
theorem residue_gmulLoop (n : Nat) (a b r : Byte) (hb : b.toNat < 2 ^ n) :
    residue poly (gmulLoop poly n a b r) = residue poly r + residue poly a * residue poly b := by
  induction n generalizing a b r with
  | zero =>
    obtain rfl : b = 0x00 := BitVec.eq_of_toNat_eq (by simpa using hb)
    simp [gmulLoop]
  | succ n ih =>
    have hshift : (b >>> 1).toNat < 2 ^ n := by simp; omega
    have hbit : residue poly b =
        (if b.getLsbD 0 then 1 else 0) + AdjoinRoot.root (modulus poly) * residue poly (b >>> 1) := by
      rw [residue, polyOf_eq_lowBit_add b, map_add, map_mul, AdjoinRoot.mk_X, residue]
      split <;> simp
    rw [gmulLoop, ih _ _ _ hshift, residue_xtime, hbit]
    split
    · rw [gadd, residue_xor]; ring
    · ring

/-- `gmul` is the product of the ring of residues (R113). -/
@[simp] theorem residue_gmul (a b : Byte) : residue poly (gmul poly a b) = residue poly a * residue poly b := by
  rw [gmul, residue_gmulLoop 8 a b 0x00 b.isLt]
  simp

/-! The laws of R122 that need no legal parameters. -/

theorem gmul_comm (a b : Byte) : gmul poly a b = gmul poly b a := by
  apply residue_injective poly; simp [mul_comm]

theorem gmul_assoc (a b c : Byte) : gmul poly (gmul poly a b) c = gmul poly a (gmul poly b c) := by
  apply residue_injective poly; simp [mul_assoc]

theorem gmul_xor (a b c : Byte) : gmul poly a (b ^^^ c) = gmul poly a b ^^^ gmul poly a c := by
  apply residue_injective poly; simp [mul_add]

theorem gmul_zero (a : Byte) : gmul poly a 0x00 = 0x00 := by
  apply residue_injective poly; simp

theorem gmul_one (a : Byte) : gmul poly a 0x01 = a := by
  apply residue_injective poly; simp

theorem zero_gmul (a : Byte) : gmul poly 0x00 a = 0x00 := by rw [gmul_comm, gmul_zero]

theorem one_gmul (a : Byte) : gmul poly 0x01 a = a := by rw [gmul_comm, gmul_one]

/-! Powers (R117, R119). -/

@[simp] theorem residue_gexpRepeat (b : Byte) (n : Nat) : residue poly (gexpRepeat poly b n) = residue poly b ^ n := by
  induction n with
  | zero => simp [gexpRepeat]
  | succ n ih => rw [gexpRepeat, residue_gmul, ih, pow_succ]

/-- Square and multiply with enough fuel for every bit of the power. -/
theorem residue_gexpLoop (fuel : Nat) (b : Byte) (p : Nat) (hp : p < 2 ^ fuel) :
    residue poly (gexpLoop poly fuel b p) = residue poly b ^ p := by
  induction fuel generalizing b p with
  | zero =>
    obtain rfl : p = 0 := by omega
    simp [gexpLoop]
  | succ fuel ih =>
    have hhalf := ih (gmul poly b b) (p / 2) (by omega)
    rw [residue_gmul, ← pow_two, ← pow_mul] at hhalf
    simp only [gexpLoop]
    split
    · simp [*]
    split
    · rw [residue_gmul, hhalf, ← pow_succ]; congr 1; omega
    · rw [hhalf]; congr 1; omega

/-- Square and multiply is repeated multiplication (log 8). -/
theorem gexp_eq_gexpRepeat (b : Byte) (p : Nat) : gexp poly b p = gexpRepeat poly b p := by
  apply residue_injective poly
  rw [gexp, residue_gexpLoop _ _ _ Nat.lt_log2_self, residue_gexpRepeat]

@[simp] theorem residue_gexp (b : Byte) (p : Nat) : residue poly (gexp poly b p) = residue poly b ^ p := by
  rw [gexp_eq_gexpRepeat, residue_gexpRepeat]

@[simp] theorem residue_gdiv (a b : Byte) : residue poly (gdiv poly a b) = residue poly a * residue poly b ^ 254 := by
  rw [gdiv, residue_gmul, residue_gexp]

/-- The table of powers from the k-th on. -/
theorem powersFrom_gexpRepeat (g : Byte) (n k : Nat) :
    powersFrom poly g n (gexpRepeat poly g k) = (List.range' k n).map (gexpRepeat poly g) := by
  induction n generalizing k with
  | zero => rfl
  | succ n ih => rw [powersFrom, List.range'_succ, List.map_cons, ← ih, gexpRepeat]

/-- `EXP_T` (R111). -/
theorem expTable_eq (p : Params) : expTable p = (List.range 255).map (gexpRepeat p.gfPoly p.gfGen) := by
  rw [List.range_eq_range']
  exact powersFrom_gexpRepeat p.gfGen 255 0

/-! A primitive element generates the nonzero bytes (R111). -/

section
variable {g : Byte} (hg : primitiveElement poly g = true)
include hg

/-- The first power of a primitive element that is 1 is the 255th. -/
theorem orderOf_residue : orderOf (residue poly g) = 255 := by
  have htable : powersFrom poly g 255 g = (List.range' 1 255).map (gexpRepeat poly g) := by
    rw [← powersFrom_gexpRepeat, gexpRepeat, gexpRepeat, one_gmul]
  have hfirst : ((List.range' 1 255).map (gexpRepeat poly g)).idxOf 0x01 = 254 := by
    rw [← htable]; exact beq_iff_eq.mp hg
  have hone (n : Nat) : residue poly g ^ n = 1 ↔ gexpRepeat poly g n = 0x01 := by
    rw [← residue_gexpRepeat, ← residue_one]; exact (residue_injective poly).eq_iff
  obtain ⟨h255, hbefore⟩ := (List.findIdx_eq (by simp)).mp hfirst
  refine (orderOf_eq_iff (by decide)).mpr ⟨(hone 255).mpr (by simpa using h255), fun m hm hpos hpow => ?_⟩
  have hne : gexpRepeat poly g (1 + (m - 1)) ≠ 0x01 := by simpa using hbefore (m - 1) (by omega)
  rw [Nat.add_sub_cancel' hpos] at hne
  exact hne ((hone m).mp hpow)

theorem residue_pow_255 : residue poly g ^ 255 = 1 := orderOf_residue hg ▸ pow_orderOf_eq_one _

theorem gexpRepeat_injOn : Set.InjOn (gexpRepeat poly g) (Finset.range 255) := by
  intro i hi j hj h
  have hpow : residue poly g ^ i = residue poly g ^ j := by rw [← residue_gexpRepeat, h, residue_gexpRepeat]
  exact pow_injOn_Iio_orderOf (by simpa [orderOf_residue hg] using hi) (by simpa [orderOf_residue hg] using hj) hpow

theorem residue_gexpRepeat_pow_255 (n : Nat) : residue poly (gexpRepeat poly g n) ^ 255 = 1 := by
  rw [residue_gexpRepeat, ← pow_mul, mul_comm, pow_mul, residue_pow_255 hg, one_pow]

/-- No power of a primitive element is 0x00, since the 255th of each is 1. -/
theorem gexpRepeat_ne_zero (n : Nat) : gexpRepeat poly g n ≠ 0x00 := by
  intro h
  have hone := residue_gexpRepeat_pow_255 hg n
  rw [h, ← residue_one] at hone
  exact absurd (residue_injective poly (by simpa using hone)) (by decide : (0x00 : Byte) ≠ 0x01)

/-- The powers from the 0th to the 254th are different bytes other than 0x00, so they are all of these. -/
theorem exists_gexpRepeat_eq {a : Byte} (ha : a ≠ 0x00) : ∃ e < 255, gexpRepeat poly g e = a := by
  have hcard : Fintype.card Byte = 256 := (Fintype.card_congr BitVec.equivFin.toEquiv).trans (Fintype.card_fin _)
  have hsurj : Set.SurjOn (gexpRepeat poly g) (Finset.range 255) (Finset.univ.erase (0x00 : Byte)) :=
    Finset.surjOn_of_injOn_of_card_le _ (fun n _ => by simpa using gexpRepeat_ne_zero hg n) (gexpRepeat_injOn hg)
      (by simp [hcard])
  obtain ⟨e, he, rfl⟩ := hsurj (a := a) (by simpa using ha)
  exact ⟨e, by simpa using he, rfl⟩

end

theorem primitiveElement_gfGen {p : Params} (hp : p.legal = true) : primitiveElement p.gfPoly p.gfGen = true := by
  simp only [Params.legal, Bool.and_eq_true] at hp
  obtain ⟨⟨⟨_, hgen⟩, _⟩, _⟩ := hp
  exact hgen

/-! Division and inverses under legal parameters (R115, R122, R123). -/

section
variable {p : Params} (hp : p.legal = true)
include hp

/-- The order of every nonzero byte divides 255. -/
theorem residue_pow_255_of_ne_zero {b : Byte} (hb : b ≠ 0x00) : residue p.gfPoly b ^ 255 = 1 := by
  obtain ⟨e, _, rfl⟩ := exists_gexpRepeat_eq (primitiveElement_gfGen hp) hb
  exact residue_gexpRepeat_pow_255 (primitiveElement_gfGen hp) e

theorem gdiv_gmul (a : Byte) {b : Byte} (hb : b ≠ 0x00) : gdiv p.gfPoly (gmul p.gfPoly a b) b = a := by
  apply residue_injective p.gfPoly
  rw [residue_gdiv, residue_gmul, mul_assoc, ← pow_succ', residue_pow_255_of_ne_zero hp hb, mul_one]

theorem gmul_gdiv (a : Byte) {b : Byte} (hb : b ≠ 0x00) : gmul p.gfPoly (gdiv p.gfPoly a b) b = a := by
  apply residue_injective p.gfPoly
  rw [residue_gmul, residue_gdiv, mul_assoc, ← pow_succ, residue_pow_255_of_ne_zero hp hb, mul_one]

theorem gmul_left_injective {b : Byte} (hb : b ≠ 0x00) : Function.Injective fun a => gmul p.gfPoly a b :=
  Function.LeftInverse.injective (g := fun a => gdiv p.gfPoly a b) fun a => gdiv_gmul hp a hb

theorem gmul_eq_zero_iff (a b : Byte) : gmul p.gfPoly a b = 0x00 ↔ a = 0x00 ∨ b = 0x00 := by
  constructor
  · intro h
    by_contra! hne
    obtain ⟨ha, hb⟩ := hne
    exact ha (gmul_left_injective hp hb (h.trans (zero_gmul b).symm))
  · rintro (rfl | rfl)
    · exact zero_gmul b
    · exact gmul_zero a

theorem gexpRepeat_add_255 {b : Byte} (hb : b ≠ 0x00) (n : Nat) :
    gexpRepeat p.gfPoly b (n + 255) = gexpRepeat p.gfPoly b n := by
  apply residue_injective p.gfPoly
  rw [residue_gexpRepeat, residue_gexpRepeat, pow_add, residue_pow_255_of_ne_zero hp hb, mul_one]

end

/-- `glog` finds the place of a power in EXP_T. -/
theorem glog_gexpRepeat {p : Params} (hp : p.legal = true) {e : Nat} (he : e < 255) :
    glog p (gexpRepeat p.gfPoly p.gfGen e) = e := by
  have hnodup : (expTable p).Nodup := by
    rw [expTable_eq]
    exact List.Nodup.map_on (fun i hi j hj => gexpRepeat_injOn (primitiveElement_gfGen hp)
      (by simpa using hi) (by simpa using hj)) List.nodup_range
  have hlen : e < (expTable p).length := by simpa [expTable_eq] using he
  have hget : (expTable p)[e] = gexpRepeat p.gfPoly p.gfGen e := by simp [expTable_eq]
  rw [glog, ← hget, hnodup.idxOf_getElem]

/-! The frames and the ends of the scalar commands. -/

/-- A command with no payload is its header and its arguments. -/
theorem encode_of_payload_nil {i : Instr} (h : i.payload = []) : Sys2Proof.encode i = headerWord i.opcode :: i.args := by
  simp [Sys2Proof.encode, h, pack]

/-- A command with one result word (R82). -/
theorem complete_word (w : Word) (s : State) : complete [w] [] s = .next (answered s [0x00, w]) := by
  rw [complete_eq, okResponse, statusWord_ok]
  rfl

theorem exec_gfLog_of_ne_zero {s : State} {a : Byte} (ha : a ≠ 0x00) :
    exec (.gfLog a) s = .next (answered s [0x00, countWord (glog s.params a)]) :=
  (if_neg ha).trans (complete_word _ s)

/-! No command but GF_LOG reads GF_GEN (R111): every other commutes with a change of the generator. The two ends of a
command, `raise` and `complete`, do so by definition; a check whose condition does not read the generator keeps it so. -/

/-- `s` with another generator. -/
def State.withGen (g : Byte) (s : State) : State := { s with params := { s.params with gfGen := g } }

/-- An outcome with another generator in its state. -/
def withGenNext (g : Byte) : Result → Result
  | .next s => .next (s.withGen g)
  | .fault r => .fault r
  | .refused r => .refused r

theorem ite_eq_apply_ite {α β : Type} (f : α → β) {c : Prop} [Decidable c] {a b : α} {a' b' : β} (ha : a' = f a)
    (hb : b' = f b) : (if c then a' else b') = f (if c then a else b) := by
  rw [apply_ite f, ha, hb]

section
variable {g : Byte} {s : State}

/-- A command whose checks raise one after the other commutes with a change of the generator when its rest does. -/
theorem check_withGen {c : Prop} [Decidable c] {st : Status} {r r' : Result} (h : r' = withGenNext g r) :
    (if c then raise st (s.withGen g) else r') = withGenNext g (if c then raise st s else r) :=
  ite_eq_apply_ite _ rfl h

theorem requireConfigured_withGen {r r' : Result} (h : r' = withGenNext g r) :
    requireConfigured (s.withGen g) r' = withGenNext g (requireConfigured s r) :=
  ite_eq_apply_ite _ h rfl

theorem verifyParity_withGen (s : State) : (s.withGen g).verifyParity = s.verifyParity := rfl

theorem ginvert_withGen (n : Nat) (a : Mat) (s : State) :
    ginvert (s.withGen g).params.gfPoly (s.withGen g).params.pivotMode n a =
      ginvert s.params.gfPoly s.params.pivotMode n a := rfl

theorem writeRows_withGen (base : Nat) (rows : Mat) (s : State) :
    (s.withGen g).writeRows base rows = (s.writeRows base rows).withGen g :=
  List.foldl_hom _ fun _ _ => rfl

theorem repairParity_withGen (valid : List Bool) (p : Mat) (s : State) :
    (s.withGen g).repairParity valid p = (s.repairParity valid p).withGen g :=
  List.foldl_hom _ fun _ _ => ite_eq_apply_ite _ rfl rfl

theorem encodeShards_withGen (bufs : List Buffer) (s : State) :
    (s.withGen g).encodeShards bufs = (s.encodeShards bufs).withGen g := by
  rw [State.encodeShards, writeRows_withGen]
  rfl

theorem reconCorruption_withGen (s : State) :
    (s.withGen g).reconCorruption = s.reconCorruption.map (State.withGen g) := by
  simp only [State.reconCorruption, verifyParity_withGen]
  rcases s.verifyParity with st | ⟨valid, p⟩
  · rfl
  · exact ite_eq_apply_ite _ rfl (congrArg Except.ok (repairParity_withGen valid p s))

theorem reconData_withGen (mask : List Bool) (s : State) :
    (s.withGen g).reconData mask = (s.reconData mask).map (State.withGen g) := by
  refine ite_eq_apply_ite _ rfl (ite_eq_apply_ite _ rfl (ite_eq_apply_ite _ rfl ?_))
  have hem : (s.withGen g).em = s.em := rfl
  have hk : (s.withGen g).cfgK = s.cfgK := rfl
  rw [ginvert_withGen, hem, hk]
  cases ginvert s.params.gfPoly s.params.pivotMode s.cfgK ((selectShards s.cfgK mask).map (matRow s.em)) with
  | none => rfl
  | some x => exact congrArg Except.ok (writeRows_withGen _ _ s)

theorem reconDisk_withGen (s : State) : (s.withGen g).reconDisk = s.reconDisk.map (State.withGen g) := by
  have hpresence : (s.withGen g).presence = s.presence := rfl
  refine ite_eq_apply_ite _ rfl (ite_eq_apply_ite _ ?_ (ite_eq_apply_ite _ (reconCorruption_withGen s)
    (ite_eq_apply_ite _ rfl rfl)))
  rw [hpresence, reconData_withGen]
  cases s.reconData s.presence with
  | error st => rfl
  | ok u => exact reconCorruption_withGen u

theorem finishRecon_withGen {r r' : Except Status State} (h : r' = r.map (State.withGen g)) :
    finishRecon r' (s.withGen g) = withGenNext g (finishRecon r s) := by
  subst h
  cases r <;> rfl

/-- Every command but GF_LOG commutes with a change of the generator. -/
theorem exec_withGen {i : Instr} (hi : ∀ a, i ≠ .gfLog a) (s : State) :
    exec i (s.withGen g) = withGenNext g (exec i s) := by
  cases i with
  | gfAdd a b => rfl
  | gfMul a b => rfl
  | gfDiv a b => exact check_withGen rfl
  | gfExp base power => rfl
  | gfLog a => exact absurd rfl (hi a)
  | matBuild rows cols => exact check_withGen rfl
  | matMul m n a bufs => exact check_withGen (check_withGen (check_withGen (check_withGen rfl)))
  | matInv rows cols a =>
    refine check_withGen (check_withGen ?_)
    rw [ginvert_withGen]
    cases ginvert s.params.gfPoly s.params.pivotMode rows.toNat (reshape rows.toNat cols.toNat a) <;> rfl
  | vdmBuild rows cols => exact check_withGen rfl
  | raidConfig k m cap => exact check_withGen rfl
  | encode bufs =>
    refine requireConfigured_withGen (check_withGen (check_withGen (check_withGen ?_)))
    rw [encodeShards_withGen]
    rfl
  | dropShard index => exact requireConfigured_withGen (check_withGen rfl)
  | bitFlip index bitpos =>
    exact requireConfigured_withGen (check_withGen (check_withGen (check_withGen rfl)))
  | detect => exact requireConfigured_withGen rfl
  | verify =>
    refine requireConfigured_withGen ?_
    rw [verifyParity_withGen]
    cases s.verifyParity <;> rfl
  | reconCorruption => exact requireConfigured_withGen (finishRecon_withGen (reconCorruption_withGen s))
  | reconData mask => exact requireConfigured_withGen (finishRecon_withGen (reconData_withGen mask s))
  | reconDisk => exact requireConfigured_withGen (finishRecon_withGen (reconDisk_withGen s))
  | readShard index =>
    refine requireConfigured_withGen (check_withGen ?_)
    have hread : (s.withGen g).slotRead index.toNat = s.slotRead index.toNat := rfl
    rw [hread]
    cases s.slotRead index.toNat <;> rfl

end

end Sys2Proof.Machine

namespace Sys2Proof.Proofs

open Sys2Proof.Machine Sys2Proof.Claims

/-- Settles O25: equal residues differ by a multiple of p(x). -/
theorem gmulIsThePolynomialProductModuloTheFieldPolynomial :
    Obligations.GmulIsThePolynomialProductModuloTheFieldPolynomial := by
  intro poly a b h
  rw [polyOf_eq_modulus h, ← AdjoinRoot.mk_eq_mk, map_mul]
  exact (residue_gmul a b).symm

/-- Settles O22: the command under another generator ends as it did, with that generator in the next state. -/
theorem onlyGfLogDependsOnTheGenerator : Obligations.OnlyGfLogDependsOnTheGenerator := by
  intro i s g hi
  have hgen := exec_withGen (g := g) hi s
  obtain ⟨t, status, words, ht, hresp, _⟩ := engineStateFollowsTheTable i s
  rw [ht] at hgen
  exact ⟨t, t.withGen g, _, ht, hgen, rfl, hresp, hresp⟩

/-- Settles O23, by the laws of the ring of residues; for division, every nonzero b has b^255 = 1. -/
theorem fieldLaws : Obligations.FieldLaws := by
  intro p a b c
  exact ⟨BitVec.xor_comm a b, by rw [BitVec.xor_assoc, BitVec.xor_self, BitVec.xor_zero], gmul_comm a b,
    gmul_assoc a b c, gmul_xor a b c, gmul_zero a, gmul_one a, fun hp hb => ⟨gdiv_gmul hp a hb, gmul_gdiv hp a hb⟩⟩

/-- Settles O24: division undoes multiplication by a nonzero byte. -/
theorem nonzeroElementsAreUnits : Obligations.NonzeroElementsAreUnits := by
  intro p hp
  refine ⟨fun b hb => gmul_gdiv hp 0x01 hb, fun q => ?_, gmul_eq_zero_iff hp, fun c hc => ?_⟩
  · rw [gmul_zero]; decide
  · simp only [gmul_comm c]
    exact Finite.injective_iff_bijective.mp (gmul_left_injective hp hc)

/-- Settles O28: `gdiv` is a quotient, and multiplication by b is injective. -/
theorem gfDivReturnsTheUniqueQuotient : Obligations.GfDivReturnsTheUniqueQuotient := by
  intro s a b
  refine ⟨(encode_of_payload_nil rfl).trans (congrArg (· :: _) headerWord_gfDiv), fun hb => ?_, fun hb => ?_⟩
  · exact (if_pos hb).trans (raise_eq_of_plain s (by decide) (by decide))
  · refine ⟨gdiv s.params.gfPoly a b, (if_neg hb).trans (complete_word _ s), fun hp => ?_⟩
    have hq := gmul_gdiv hp a hb
    exact ⟨hq, fun q' hq' => gmul_left_injective hp hb (hq'.trans hq.symm)⟩

/-- Settles O29: square and multiply is repeated multiplication. -/
theorem gfExpIsRepeatedMultiplication : Obligations.GfExpIsRepeatedMultiplication := by
  intro s base power
  refine ⟨(encode_of_payload_nil rfl).trans (congrArg (· :: _) headerWord_gfExp), ?_⟩
  rw [← gexp_eq_gexpRepeat]
  exact complete_word _ s

/-- Settles O30, by the recurrence of repeated multiplication and b^255 = 1. -/
theorem powersFollowTheirRecurrenceAndPeriod : Obligations.PowersFollowTheirRecurrenceAndPeriod := by
  intro p b n
  simp only [gexp_eq_gexpRepeat]
  exact ⟨rfl, rfl, gmul_zero _, fun hp hb => gexpRepeat_add_255 hp hb n⟩

/-- Settles O31: the first 255 powers of GF_GEN are the nonzero bytes, each once, and EXP_T lists them in order. -/
theorem gfLogReturnsTheUniqueExponent : Obligations.GfLogReturnsTheUniqueExponent := by
  intro s a
  refine ⟨(encode_of_payload_nil rfl).trans (congrArg (· :: _) headerWord_gfLog), fun ha => ?_, fun ha hp => ?_⟩
  · exact (if_pos ha).trans (raise_eq_of_plain s (by decide) (by decide))
  · have hg := primitiveElement_gfGen hp
    obtain ⟨e, he, rfl⟩ := exists_gexpRepeat_eq hg ha
    refine ⟨e, he, rfl, fun e' he' h => gexpRepeat_injOn hg (by simpa using he') (by simpa using he) h, ?_⟩
    rw [exec_gfLog_of_ne_zero ha, glog_gexpRepeat hp he]
    rfl

/-- Settles O26: field addition is XOR by definition, and the command ends with its one result word. -/
theorem gfAddReturnsTheXor : Obligations.GfAddReturnsTheXor :=
  fun s _ _ => ⟨(encode_of_payload_nil rfl).trans (congrArg (· :: _) headerWord_gfAdd), complete_word _ s⟩

/-- Settles O27: the command ends with its one result word, the `gmul` of its operands. -/
theorem gfMulReturnsTheProduct : Obligations.GfMulReturnsTheProduct :=
  fun s _ _ => ⟨(encode_of_payload_nil rfl).trans (congrArg (· :: _) headerWord_gfMul), complete_word _ s⟩

end Sys2Proof.Proofs
end

section
/-! PROOFS, family 41_matrix_engine. Elimination is followed by its solutions: the rows of the augmented matrix [A | I],
read in the ring of residues, are linear equations, and a pivot step keeps the solutions of every system of leading rows
that it stays within. Once the left half is the identity, the right half is an inverse; with no pivot, a block of A takes
a nonzero column to zero and has none. Both pivot modes are one argument, over the leading blocks that the mode decides. -/

namespace Sys2Proof.Machine

open Sys2Proof.Claims

variable {poly : BitVec 9} {mode : PivotMode} {a b w x : Mat} {rows cols n i j c r t : Nat}

/-! Matrices as lists of rows of one length. -/

theorem length_matRow (h : IsMat rows cols a) (hi : i < rows) : (matRow a i).length = cols := by
  obtain ⟨hlen, hrows⟩ := h
  rw [matRow, List.getD_eq_getElem _ _ (hlen ▸ hi)]
  exact hrows _ (List.getElem_mem _)

theorem isMat_iff_matRow : IsMat rows cols a ↔ a.length = rows ∧ ∀ i < rows, (matRow a i).length = cols := by
  refine ⟨fun h => ⟨h.1, fun _ hi => length_matRow h hi⟩, fun ⟨hlen, hrows⟩ => ⟨hlen, fun row hrow => ?_⟩⟩
  obtain ⟨i, hi, rfl⟩ := List.getElem_of_mem hrow
  simpa [matRow, hi] using hrows i (hlen ▸ hi)

/-- Two buffers of one length and equal bytes are equal. -/
theorem buffer_ext {row row' : Buffer} (hlen : row.length = cols) (hlen' : row'.length = cols)
    (h : ∀ j < cols, row.getD j 0x00 = row'.getD j 0x00) : row = row' := by
  refine List.ext_getElem (hlen.trans hlen'.symm) fun j hj hj' => ?_
  simpa [hj, hj'] using h j (hlen ▸ hj)

/-- Two matrices of one shape and equal entries are equal. -/
theorem mat_ext (ha : IsMat rows cols a) (hb : IsMat rows cols b)
    (h : ∀ i < rows, ∀ j < cols, entry a i j = entry b i j) : a = b := by
  refine List.ext_getElem (ha.1.trans hb.1.symm) fun i hi hi' => ?_
  have hrow : matRow a i = matRow b i :=
    buffer_ext (length_matRow ha (ha.1 ▸ hi)) (length_matRow hb (ha.1 ▸ hi)) (h i (ha.1 ▸ hi))
  simpa [matRow, hi, hi'] using hrow

/-! The rows that elimination makes (R145). -/

theorem matRow_augment (hi : i < n) : matRow (augment n a) i = matRow a i ++ unitRow n i := by
  simp [matRow, augment, hi]

theorem isMat_augment (ha : IsMat n n a) : IsMat n (n + n) (augment n a) := by
  refine isMat_iff_matRow.mpr ⟨augment_length n a, fun i hi => ?_⟩
  simp [matRow_augment hi, length_matRow ha hi, unitRow]

/-- The left half of the augmented matrix is A. -/
theorem entry_augment_left (ha : IsMat n n a) (hi : i < n) (hj : j < n) : entry (augment n a) i j = entry a i j := by
  change (matRow (augment n a) i).getD j 0x00 = _
  rw [matRow_augment hi, List.getD_append _ _ _ _ (by rwa [length_matRow ha hi])]
  rfl

/-- The right half of the augmented matrix is the identity. -/
theorem entry_augment_right (ha : IsMat n n a) (hi : i < n) (hj : j < n) :
    entry (augment n a) i (n + j) = if i = j then 0x01 else 0x00 := by
  change (matRow (augment n a) i).getD (n + j) 0x00 = _
  rw [matRow_augment hi, List.getD_append_right _ _ _ _ (by rw [length_matRow ha hi]; omega), length_matRow ha hi]
  simp [unitRow, hj, eq_comm]

/-- A row exchange renames the rows. -/
theorem matRow_swapRows (hr : r < w.length) (hc : c < w.length) (i : Nat) :
    matRow (swapRows w r c) i = matRow w (Equiv.swap r c i) := by
  by_cases hic : i = c
  · subst hic
    simp [matRow, swapRows, hr, hc]
  by_cases hir : i = r
  · subst hir
    simp [matRow, swapRows, hr, hc, Ne.symm hic]
  · simp [matRow, swapRows, Ne.symm hic, Ne.symm hir, Equiv.swap_apply_of_ne_of_ne hir hic]

theorem isMat_swapRows (hw : IsMat rows cols w) (hr : r < rows) (hc : c < rows) : IsMat rows cols (swapRows w r c) := by
  refine isMat_iff_matRow.mpr ⟨(swapRows_length w r c).trans hw.1, fun i hi => ?_⟩
  rw [matRow_swapRows (hw.1 ▸ hr) (hw.1 ▸ hc)]
  refine length_matRow hw ?_
  rw [Equiv.swap_apply_def]
  split_ifs <;> assumption

/-- The pivot's row after elimination: divided by the pivot. -/
theorem matRow_eliminate_same (hc : c < w.length) :
    matRow (eliminate poly w c) c = (matRow w c).map fun x => gdiv poly x (entry w c c) := by
  simp [matRow, eliminate, hc]

/-- Any other row after elimination. -/
theorem matRow_eliminate_other (hi : i < w.length) (hic : i ≠ c) :
    matRow (eliminate poly w c) i =
      if entry w i c = 0x00 then matRow w i
      else List.zipWith (fun x y => gadd x (gmul poly (entry w i c) y)) (matRow w i)
        ((matRow w c).map fun x => gdiv poly x (entry w c c)) := by
  simp [matRow, eliminate, hi, hic, entry]

theorem isMat_eliminate (hw : IsMat rows cols w) (hc : c < rows) : IsMat rows cols (eliminate poly w c) := by
  refine isMat_iff_matRow.mpr ⟨(eliminate_length w c).trans hw.1, fun i hi => ?_⟩
  by_cases hic : i = c
  · subst hic
    rw [matRow_eliminate_same (hw.1 ▸ hi), List.length_map, length_matRow hw hi]
  · rw [matRow_eliminate_other (hw.1 ▸ hi) hic]
    split <;> simp [length_matRow hw hi, length_matRow hw hc]

/-! Entries as residues: elimination and inverses read in the ring of residues modulo p(x). -/

theorem residue_add_self (e : Byte) : residue poly e + residue poly e = 0 := by
  rw [← residue_xor, BitVec.xor_self, residue_zero]

theorem residue_one_ne_zero : (1 : AdjoinRoot (modulus poly)) ≠ 0 := by
  rw [← residue_one, ← residue_zero]
  exact (residue_injective poly).ne (by decide)

/-- XOR over a range is the sum of residues. -/
theorem residue_xorOver (n : Nat) (f : Nat → Byte) :
    residue poly (xorOver n f) = ∑ k ∈ Finset.range n, residue poly (f k) := by
  have hfold (l : List Nat) :
      residue poly (l.foldr (fun k acc => f k ^^^ acc) 0x00) = (l.map fun k => residue poly (f k)).sum := by
    induction l with
    | nil => exact residue_zero
    | cons k l ih => rw [List.foldr_cons, residue_xor, ih, List.map_cons, List.sum_cons]
  exact hfold (List.range n)

/-- Entry (i, j) as a residue. -/
noncomputable def coef (poly : BitVec 9) (w : Mat) (i j : Nat) : AdjoinRoot (modulus poly) := residue poly (entry w i j)

/-- The leading n x n block as a matrix of residues. -/
noncomputable def leadingBlock (poly : BitVec 9) (n : Nat) (a : Mat) : Matrix (Fin n) (Fin n) (AdjoinRoot (modulus poly)) :=
  .of fun i j => coef poly a i j

theorem leadingBlock_mul_apply (i j : Fin n) :
    (leadingBlock poly n a * leadingBlock poly n x) i j = ∑ k ∈ Finset.range n, coef poly a i k * coef poly x k j := by
  rw [Matrix.mul_apply, Finset.sum_range]
  rfl

/-- An inverse in bytes is an inverse in residues. -/
theorem isInverse_iff : IsInverse poly n a x ↔ leadingBlock poly n a * leadingBlock poly n x = 1 := by
  have hentry (i j : Fin n) :
      xorOver n (fun k => gmul poly (entry a i k) (entry x k j)) = (if (i : Nat) = j then 0x01 else 0x00) ↔
        (leadingBlock poly n a * leadingBlock poly n x) i j = (1 : Matrix (Fin n) (Fin n) _) i j := by
    rw [← (residue_injective poly).eq_iff, residue_xorOver, leadingBlock_mul_apply, Matrix.one_apply]
    simp [coef, apply_ite (residue poly), Fin.ext_iff]
  rw [← Matrix.ext_iff]
  exact ⟨fun h i j => (hentry i j).mp (h i i.isLt j j.isLt), fun h i hi j hj => (hentry ⟨i, hi⟩ ⟨j, hj⟩).mpr (h _ _)⟩

/-- A matrix has at most one inverse. -/
theorem isInverse_unique {y : Mat} (hx : IsMat n n x) (hy : IsMat n n y) (hax : IsInverse poly n a x)
    (hay : IsInverse poly n a y) : x = y := by
  rw [isInverse_iff] at hax hay
  have hblock : leadingBlock poly n x = leadingBlock poly n y := left_inv_eq_right_inv (mul_eq_one_comm.mp hax) hay
  exact mat_ext hx hy fun i hi j hj => residue_injective poly (congrFun (congrFun hblock ⟨i, hi⟩) ⟨j, hj⟩)

/-- Elimination on residues: the 254th power of a nonzero pivot is its inverse. -/
theorem coef_eliminate (hw : IsMat rows cols w) (hc : c < rows) (hi : i < rows) (hj : j < cols) :
    coef poly (eliminate poly w c) i j =
      if i = c then coef poly w c c ^ 254 * coef poly w c j
      else coef poly w i j + coef poly w i c * (coef poly w c c ^ 254 * coef poly w c j) := by
  have hjc : j < (matRow w c).length := by rwa [length_matRow hw hc]
  have hji : j < (matRow w i).length := by rwa [length_matRow hw hi]
  have hentry (i : Nat) : entry w i j = (matRow w i).getD j 0x00 := rfl
  rw [← hw.1] at hc hi
  change residue poly ((matRow (eliminate poly w c) i).getD j 0x00) = _
  split
  case isTrue h =>
    subst h
    simp [matRow_eliminate_same hi, coef, hentry i, hjc, mul_comm]
  case isFalse h =>
    rw [matRow_eliminate_other hi h]
    split
    case isTrue h0 => simp [coef, h0, hentry i]
    case isFalse => simp [coef, hentry i, hentry c, hjc, hji, gadd, mul_comm]

/-- A row exchange renames the rows. -/
theorem coef_swapRows (hw : IsMat rows cols w) (hr : r < rows) (hc : c < rows) :
    coef poly (swapRows w r c) i j = coef poly w (Equiv.swap r c i) j :=
  congrArg (fun row : Buffer => residue poly (row.getD j 0x00)) (matRow_swapRows (hw.1 ▸ hr) (hw.1 ▸ hc) i)

/-! The value of a row at u, a residue for each of the 2n columns. The rows of the first t that have value 0 are a system of
linear equations, and elimination keeps its solutions. -/

/-- Row i of an n x 2n matrix times the column u. -/
noncomputable def rowValue (poly : BitVec 9) (n : Nat) (w : Mat) (i : Nat) (u : Nat → AdjoinRoot (modulus poly)) :
    AdjoinRoot (modulus poly) :=
  ∑ j ∈ Finset.range (n + n), coef poly w i j * u j

/-- u solves the first t rows. -/
def Solves (poly : BitVec 9) (n t : Nat) (w : Mat) (u : Nat → AdjoinRoot (modulus poly)) : Prop :=
  ∀ i < t, rowValue poly n w i u = 0

/-- The columns before c are the identity's. -/
def UnitColumns (poly : BitVec 9) (n c : Nat) (w : Mat) : Prop :=
  ∀ i < n, ∀ j < c, coef poly w i j = if i = j then 1 else 0

section
variable {u : Nat → AdjoinRoot (modulus poly)} (hw : IsMat n (n + n) w) (hc : c < n)
include hw hc

theorem rowValue_eliminate (hi : i < n) :
    rowValue poly n (eliminate poly w c) i u =
      if i = c then coef poly w c c ^ 254 * rowValue poly n w c u
      else rowValue poly n w i u + coef poly w i c * (coef poly w c c ^ 254 * rowValue poly n w c u) := by
  have hsum : rowValue poly n (eliminate poly w c) i u = ∑ j ∈ Finset.range (n + n),
      (if i = c then coef poly w c c ^ 254 * coef poly w c j
        else coef poly w i j + coef poly w i c * (coef poly w c c ^ 254 * coef poly w c j)) * u j :=
    Finset.sum_congr rfl fun j hj => by rw [coef_eliminate hw hc hi (Finset.mem_range.mp hj)]
  rw [hsum]
  split <;> simp only [rowValue, Finset.mul_sum, ← Finset.sum_add_distrib, add_mul, mul_assoc]

/-- Elimination with an invertible pivot keeps the solutions of every system that has the pivot's row. -/
theorem solves_eliminate_iff (hpivot : coef poly w c c * coef poly w c c ^ 254 = 1) (hct : c < t) (htn : t ≤ n) :
    Solves poly n t (eliminate poly w c) u ↔ Solves poly n t w u := by
  have hsame (h0 : rowValue poly n w c u = 0) (i : Nat) (hi : i < t) :
      rowValue poly n (eliminate poly w c) i u = rowValue poly n w i u := by
    rw [rowValue_eliminate hw hc (by omega)]
    split
    · subst i; simp [h0]
    · simp [h0]
  refine ⟨fun h => ?_, fun h i hi => (hsame (h c hct) i hi).trans (h i hi)⟩
  have hscaled := h c hct
  rw [rowValue_eliminate hw hc hc, if_pos rfl] at hscaled
  have h0 : rowValue poly n w c u = 0 := by
    rw [← one_mul (rowValue poly n w c u), ← hpivot, mul_assoc, hscaled, mul_zero]
  exact fun i hi => (hsame h0 i hi).symm.trans (h i hi)

/-- A row exchange keeps the solutions of every system that has both rows. -/
theorem solves_swapRows_iff (hrt : r < t) (hct : c < t) (htn : t ≤ n) :
    Solves poly n t (swapRows w r c) u ↔ Solves poly n t w u := by
  have hrow (i : Nat) : rowValue poly n (swapRows w r c) i u = rowValue poly n w (Equiv.swap r c i) u :=
    Finset.sum_congr rfl fun j _ => by rw [coef_swapRows hw (by omega) hc]
  have hlt {i : Nat} (hi : i < t) : Equiv.swap r c i < t := by
    rw [Equiv.swap_apply_def]; split_ifs <;> assumption
  refine ⟨fun h i hi => ?_, fun h i hi => (hrow i).trans (h _ (hlt hi))⟩
  simpa [hrow] using h _ (hlt hi)

theorem unitColumns_eliminate (h : UnitColumns poly n c w) (hpivot : coef poly w c c * coef poly w c c ^ 254 = 1) :
    UnitColumns poly n (c + 1) (eliminate poly w c) := by
  intro i hi j hj
  rw [coef_eliminate hw hc hi (by omega)]
  rcases Nat.lt_succ_iff_lt_or_eq.mp hj with hjc | rfl
  · rw [h c hc j hjc, if_neg hjc.ne', mul_zero, mul_zero, add_zero, h i hi j hjc]
    exact ite_eq_right_iff.mpr fun hic => (if_neg (by omega)).symm
  · rw [mul_comm, hpivot]
    simp [coef, residue_add_self]

theorem unitColumns_swapRows (h : UnitColumns poly n c w) (hcr : c ≤ r) (hr : r < n) :
    UnitColumns poly n c (swapRows w r c) := by
  intro i hi j hj
  rw [coef_swapRows hw hr hc]
  by_cases hci : c ≤ i
  · have hswap : c ≤ Equiv.swap r c i ∧ Equiv.swap r c i < n := by
      rw [Equiv.swap_apply_def]; split_ifs <;> omega
    rw [h _ hswap.2 j hj, if_neg (by omega), if_neg (by omega)]
  · rw [Equiv.swap_apply_of_ne_of_ne (by omega) (by omega)]
    exact h i hi j hj

end

/-- With r = c there is nothing to exchange. -/
theorem swapRows_self (hc : c < w.length) : swapRows w c c = w := by
  simp [swapRows, matRow, hc]

/-! The search for a pivot (R145). -/

/-- The leading t x t blocks whose invertibility the pivot rule decides: in mode `none` every one, in mode `partial`, which
takes pivots from all the rows below, the whole matrix only. -/
structure PivotBlock (mode : PivotMode) (n t : Nat) : Prop where
  le : t ≤ n
  eq_of_partial : mode = .partialPivot → t = n

theorem pivotBlock_self (mode : PivotMode) (n : Nat) : PivotBlock mode n n := ⟨le_rfl, fun _ => rfl⟩

/-- A pivot found is nonzero and lies in every block that has column c. -/
theorem pivotRow_eq_some (h : pivotRow mode n w c = some r) :
    c ≤ r ∧ entry w r c ≠ 0x00 ∧ ∀ t, c < t → PivotBlock mode n t → r < t := by
  cases mode with
  | partialPivot =>
    have hmem := List.mem_of_find?_eq_some h
    have hne : entry w r c ≠ 0x00 := by simpa using List.find?_some h
    obtain ⟨hcr, hrn⟩ := List.mem_range'_1.mp hmem
    refine ⟨hcr, hne, fun t _ ht => ?_⟩
    rw [ht.eq_of_partial rfl]
    omega
  | noPivot =>
    simp only [pivotRow] at h
    split at h
    · cases h
    · next hne => cases h; exact ⟨le_rfl, hne, fun t hct _ => hct⟩

/-- With no pivot, column c is zero from row c on in some block that has it. -/
theorem pivotRow_eq_none (hc : c < n) (h : pivotRow mode n w c = none) :
    ∃ t, c < t ∧ PivotBlock mode n t ∧ ∀ i, c ≤ i → i < t → entry w i c = 0x00 := by
  cases mode with
  | partialPivot =>
    refine ⟨n, hc, pivotBlock_self _ n, fun i hci hi => ?_⟩
    simpa using List.find?_eq_none.mp h i (List.mem_range'_1.mpr (by omega))
  | noPivot =>
    simp only [pivotRow] at h
    split at h
    · next h0 =>
      refine ⟨c + 1, c.lt_succ_self, ⟨hc, nofun⟩, fun i hci hi => ?_⟩
      obtain rfl : i = c := by omega
      exact h0
    · cases h

/-! The elimination as a whole. -/

/-- What holds of the augmented matrix `w` of `a` before column c is eliminated. A block with rows below row c has been
changed by its own rows only, so its system has the solutions it had at the start. -/
structure Reduced (poly : BitVec 9) (mode : PivotMode) (n : Nat) (a : Mat) (c : Nat) (w : Mat) : Prop where
  shape : IsMat n (n + n) w
  unitColumns : UnitColumns poly n c w
  solves_iff : ∀ t, c ≤ t → PivotBlock mode n t → ∀ u, Solves poly n t w u ↔ Solves poly n t (augment n a) u

theorem reduced_augment (ha : IsMat n n a) : Reduced poly mode n a 0 (augment n a) where
  shape := isMat_augment ha
  unitColumns := fun _ _ _ hj => absurd hj (Nat.not_lt_zero _)
  solves_iff := fun _ _ _ _ => Iff.rfl

theorem gaussStep_eq_some {w' : Mat} (hc : c < w.length) (h : gaussStep poly mode n w c = some w') :
    ∃ r, pivotRow mode n w c = some r ∧ w' = eliminate poly (swapRows w r c) c := by
  unfold gaussStep at h
  split at h
  · cases h
  · next r hr =>
    cases h
    refine ⟨r, hr, ?_⟩
    split
    · subst r; rw [swapRows_self hc]
    · rfl

theorem gaussStep_eq_none (h : gaussStep poly mode n w c = none) : pivotRow mode n w c = none := by
  unfold gaussStep at h
  split at h
  · assumption
  · cases h

/-- One column of the elimination. -/
theorem Reduced.succ {p : Params} (hp : p.legal = true) {w' : Mat} (hw : Reduced p.gfPoly mode n a c w) (hc : c < n)
    (h : gaussStep p.gfPoly mode n w c = some w') : Reduced p.gfPoly mode n a (c + 1) w' := by
  obtain ⟨hshape, hunit, hsolves⟩ := hw
  obtain ⟨r, hr, rfl⟩ := gaussStep_eq_some (hshape.1 ▸ hc) h
  obtain ⟨hcr, hne, hblock⟩ := pivotRow_eq_some hr
  have hrn : r < n := hblock n hc (pivotBlock_self mode n)
  have hswap : IsMat n (n + n) (swapRows w r c) := isMat_swapRows hshape hrn hc
  have hpivot : coef p.gfPoly (swapRows w r c) c c * coef p.gfPoly (swapRows w r c) c c ^ 254 = 1 := by
    rw [← pow_succ', coef_swapRows hshape hrn hc, Equiv.swap_apply_right]
    exact residue_pow_255_of_ne_zero hp hne
  refine ⟨isMat_eliminate hswap hc,
    unitColumns_eliminate hswap hc (unitColumns_swapRows hshape hc hunit hcr hrn) hpivot, fun t hct ht u => ?_⟩
  rw [solves_eliminate_iff hswap hc hpivot hct ht.le, solves_swapRows_iff hshape hc (hblock t hct ht) hct ht.le,
    hsolves t (by omega) ht]

/-- The elimination either reaches the last column, and every column on the way, or stops at a column with no pivot. -/
theorem Reduced.gaussFrom_cases {p : Params} (hp : p.legal = true) {count : Nat} (hw : Reduced p.gfPoly mode n a c w)
    (hn : c + count = n) :
    (∃ w', gaussFrom p.gfPoly mode n count c w = some w' ∧ Reduced p.gfPoly mode n a n w' ∧
      ∀ t, c ≤ t → t ≤ n → ∃ wt, Reduced p.gfPoly mode n a t wt) ∨
    (gaussFrom p.gfPoly mode n count c w = none ∧
      ∃ t wt, t < n ∧ Reduced p.gfPoly mode n a t wt ∧ pivotRow mode n wt t = none) := by
  induction count generalizing c w with
  | zero =>
    obtain rfl : c = n := hn
    exact .inl ⟨w, rfl, hw, fun t hct htn => ⟨w, by rwa [Nat.le_antisymm htn hct]⟩⟩
  | succ count ih =>
    rw [gaussFrom]
    cases hstep : gaussStep p.gfPoly mode n w c with
    | none => exact .inr ⟨rfl, c, w, by omega, hw, gaussStep_eq_none hstep⟩
    | some w1 =>
      rcases ih (hw.succ hp (by omega) hstep) (by omega) with ⟨w', hw', hlast, hall⟩ | hnone
      · refine .inl ⟨w', hw', hlast, fun t hct htn => ?_⟩
        rcases hct.eq_or_lt with rfl | hct
        · exact ⟨w, hw⟩
        · exact hall t hct htn
      · exact .inr hnone

theorem rowValue_eq_of_support {u : Nat → AdjoinRoot (modulus poly)} (ht : t ≤ n + n) (hu : ∀ j ≥ t, u j = 0) :
    rowValue poly n w i u = ∑ j ∈ Finset.range t, coef poly w i j * u j :=
  Finset.eventually_constant_sum (fun j hj => by rw [hu j hj, mul_zero]) ht

theorem isMat_map_drop (hw : IsMat rows (n + cols) w) : IsMat rows cols (w.map fun row => row.drop n) := by
  obtain ⟨hlen, hrows⟩ := hw
  refine ⟨(List.length_map _).trans hlen, fun row hrow => ?_⟩
  obtain ⟨row', hrow', rfl⟩ := List.mem_map.mp hrow
  simp [hrows row' hrow']

/-- Column j of the identity over column j of -A, in both cut off after t rows. -/
noncomputable def blockColumn (poly : BitVec 9) (n t : Nat) (a : Mat) (j k : Nat) : AdjoinRoot (modulus poly) :=
  if k < n then (if k = j then 1 else 0) else if k < n + t then -coef poly a (k - n) j else 0

theorem rowValue_blockColumn (hj : j < n) (htn : t ≤ n) :
    rowValue poly n w i (blockColumn poly n t a j) =
      coef poly w i j - ∑ k ∈ Finset.range t, coef poly w i (n + k) * coef poly a k j := by
  have hleft : ∑ k ∈ Finset.range n, coef poly w i k * blockColumn poly n t a j k = coef poly w i j := by
    rw [Finset.sum_eq_single_of_mem j (Finset.mem_range.mpr hj)]
    · simp [blockColumn, hj]
    · intro k hk hkj
      simp [blockColumn, Finset.mem_range.mp hk, hkj]
  have hright : ∑ k ∈ Finset.range n, coef poly w i (n + k) * blockColumn poly n t a j (n + k) =
      ∑ k ∈ Finset.range t, coef poly w i (n + k) * -coef poly a k j := by
    rw [Finset.eventually_constant_sum (N := t) (fun k hk => by simp [blockColumn, hk]) htn]
    exact Finset.sum_congr rfl fun k hk => by simp [blockColumn, Finset.mem_range.mp hk]
  rw [rowValue, Finset.sum_range_add, hleft, hright, sub_eq_add_neg, ← Finset.sum_neg_distrib]
  simp only [mul_neg]

theorem solves_augment_blockColumn (ha : IsMat n n a) (hj : j < n) (htn : t ≤ n) :
    Solves poly n t (augment n a) (blockColumn poly n t a j) := by
  intro i hi
  rw [rowValue_blockColumn hj htn, Finset.sum_eq_single_of_mem i (Finset.mem_range.mpr hi)]
  · simp [coef, entry_augment_left ha (hi.trans_le htn) hj, entry_augment_right ha (hi.trans_le htn) (hi.trans_le htn)]
  · intro k hk hki
    simp [coef, entry_augment_right ha (hi.trans_le htn) ((Finset.mem_range.mp hk).trans_le htn), hki.symm]

/-- Once the columns before t are the identity's, the right half of `w` holds an inverse of the leading t x t block. -/
theorem Reduced.isInverse (hw : Reduced poly mode n a t w) (ha : IsMat n n a) (ht : PivotBlock mode n t) :
    IsInverse poly t a (w.map fun row => row.drop n) := by
  obtain ⟨_, hunit, hsolves⟩ := hw
  have htn := ht.le
  have hright (i k : Nat) : coef poly (w.map fun row => row.drop n) i k = coef poly w i (n + k) := by
    by_cases hi : i < w.length <;> simp [coef, entry, hi]
  refine isInverse_iff.mpr (mul_eq_one_comm.mp (Matrix.ext fun i j => ?_))
  have hrow := (hsolves t le_rfl ht _).mpr (solves_augment_blockColumn ha (j.isLt.trans_le htn) htn) i i.isLt
  rw [rowValue_blockColumn (j.isLt.trans_le htn) htn, hunit i (i.isLt.trans_le htn) j j.isLt, sub_eq_zero] at hrow
  simp only [leadingBlock_mul_apply, hright, ← hrow, Matrix.one_apply, Fin.ext_iff]

/-- Column c of `w` above row c, then -1. -/
noncomputable def kernelColumn (poly : BitVec 9) (w : Mat) (c j : Nat) : AdjoinRoot (modulus poly) :=
  if j < c then coef poly w j c else if j = c then -1 else 0

theorem kernelColumn_of_gt (hj : c + 1 ≤ j) : kernelColumn poly w c j = 0 := by
  rw [kernelColumn, if_neg (by omega), if_neg (by omega)]

theorem solves_kernelColumn (hunit : UnitColumns poly n c w) (hcn : c < n) (htn : t ≤ n)
    (hzero : ∀ i, c ≤ i → i < t → entry w i c = 0x00) : Solves poly n t w (kernelColumn poly w c) := by
  intro i hi
  have hbefore : ∑ j ∈ Finset.range c, coef poly w i j * kernelColumn poly w c j = coef poly w i c := by
    by_cases hic : i < c
    · rw [Finset.sum_eq_single_of_mem i (Finset.mem_range.mpr hic)]
      · simp [hunit i (by omega) i hic, kernelColumn, hic]
      · intro j hj hji
        simp [hunit i (by omega) j (Finset.mem_range.mp hj), hji.symm]
    · rw [Finset.sum_eq_zero, coef, hzero i (by omega) hi]
      · exact residue_zero.symm
      · intro j hj
        have := Finset.mem_range.mp hj
        rw [hunit i (by omega) j this, if_neg (by omega), zero_mul]
  rw [rowValue_eq_of_support (t := c + 1) (by omega) (fun j hj => kernelColumn_of_gt hj), Finset.sum_range_succ, hbefore]
  simp [kernelColumn]

/-- A block that takes a nonzero column to zero has no inverse. -/
theorem not_isInverse_of_kernel {v : Nat → AdjoinRoot (modulus poly)} {y : Mat} (hc : c < t) (hv : v c ≠ 0)
    (h : ∀ i < t, ∑ j ∈ Finset.range t, coef poly a i j * v j = 0) : ¬ IsInverse poly t a y := by
  intro hy
  have hker : (leadingBlock poly t a).mulVec (fun j => v j) = 0 := by
    funext i
    have hi := h i i.isLt
    rwa [Finset.sum_range] at hi
  have hv0 : (fun j : Fin t => v j) = 0 := by
    rw [← Matrix.one_mulVec (fun j : Fin t => v j), ← mul_eq_one_comm.mp (isInverse_iff.mp hy), ← Matrix.mulVec_mulVec,
      hker, Matrix.mulVec_zero]
  exact hv (congrFun hv0 ⟨c, hc⟩)

/-- Without a pivot in column c, some leading block that has this column has no inverse. -/
theorem Reduced.exists_not_isInverse (hw : Reduced poly mode n a c w) (ha : IsMat n n a) (hc : c < n)
    (hnone : pivotRow mode n w c = none) :
    ∃ t, 1 ≤ t ∧ PivotBlock mode n t ∧ ¬ ∃ y, IsInverse poly t a y := by
  obtain ⟨_, hunit, hsolves⟩ := hw
  obtain ⟨t, hct, ht, hzero⟩ := pivotRow_eq_none hc hnone
  have htn := ht.le
  refine ⟨t, by omega, ht, fun ⟨y, hy⟩ => ?_⟩
  refine not_isInverse_of_kernel (v := kernelColumn poly w c) hct ?_ (fun i hi => ?_) hy
  · simpa [kernelColumn] using residue_one_ne_zero
  · have hrow := (hsolves t hct.le ht _).mp (solves_kernelColumn hunit hc htn hzero) i hi
    rw [rowValue_eq_of_support (t := t) (by omega) fun j hj => kernelColumn_of_gt (by omega)] at hrow
    refine (Finset.sum_congr rfl fun j hj => ?_).trans hrow
    simp only [coef, entry_augment_left ha (hi.trans_le htn) ((Finset.mem_range.mp hj).trans_le htn)]

/-! `ginvert` (R145, R148). -/

/-- `ginvert` returns an inverse when every leading block that its pivot rule decides has one, and fails when one has
none. -/
theorem ginvert_cases {p : Params} (hp : p.legal = true) (mode : PivotMode) (ha : IsMat n n a) :
    (∃ x, ginvert p.gfPoly mode n a = some x ∧ IsMat n n x ∧ IsInverse p.gfPoly n a x ∧
      ∀ t, PivotBlock mode n t → ∃ y, IsInverse p.gfPoly t a y) ∨
    (ginvert p.gfPoly mode n a = none ∧ ∃ t, 1 ≤ t ∧ PivotBlock mode n t ∧ ¬ ∃ y, IsInverse p.gfPoly t a y) := by
  rcases (reduced_augment (mode := mode) ha).gaussFrom_cases hp (Nat.zero_add n) with
    ⟨w, hrun, hw, hall⟩ | ⟨hrun, c, w, hc, hw, hnone⟩
  · have hreturn : ginvert p.gfPoly mode n a = some (w.map fun row => row.drop n) := by simp only [ginvert, hrun]
    have hinverse := hw.isInverse ha (pivotBlock_self mode n)
    refine .inl ⟨_, hreturn, isMat_map_drop hw.shape, hinverse, fun t ht => ?_⟩
    obtain ⟨wt, hwt⟩ := hall t t.zero_le ht.le
    exact ⟨_, hwt.isInverse ha ht⟩
  · exact .inr ⟨by simp only [ginvert, hrun], hw.exists_not_isInverse ha hc hnone⟩

/-! Matrices as row-major payloads (R53). -/

theorem length_flatten_mat (ha : IsMat rows cols a) : a.flatten.length = rows * cols := by
  obtain ⟨hlen, hrows⟩ := ha
  rw [List.length_flatten, List.map_congr_left hrows, List.map_const', List.sum_replicate_nat, hlen]

/-- Byte i*cols + j of the payload is entry (i, j). -/
theorem flatten_getD (ha : IsMat rows cols a) (hi : i < rows) (hj : j < cols) :
    a.flatten.getD (i * cols + j) 0x00 = entry a i j := by
  induction a generalizing i rows with
  | nil => obtain ⟨rfl, _⟩ := ha; exact absurd hi (Nat.not_lt_zero i)
  | cons row a ih =>
    obtain ⟨rfl, hrows⟩ := ha
    have hrow : row.length = cols := hrows row List.mem_cons_self
    cases i with
    | zero => rw [Nat.zero_mul, Nat.zero_add, List.flatten_cons, List.getD_append _ _ _ _ (hrow ▸ hj)]; rfl
    | succ i =>
      have hshift : (i + 1) * cols + j - row.length = i * cols + j := by rw [hrow, Nat.succ_mul]; omega
      rw [List.flatten_cons, List.getD_append_right _ _ _ _ (by rw [hrow, Nat.succ_mul]; omega), hshift,
        ih ⟨rfl, fun r hr => hrows r (List.mem_cons_of_mem _ hr)⟩ (Nat.lt_of_succ_lt_succ hi)]
      rfl

theorem matRow_reshape (bytes : List Byte) (hi : i < rows) :
    matRow (reshape rows cols bytes) i = (bytes.drop (i * cols)).take cols := by
  simp [matRow, reshape, hi]

theorem entry_reshape (bytes : List Byte) (hi : i < rows) (hj : j < cols) :
    entry (reshape rows cols bytes) i j = bytes.getD (i * cols + j) 0x00 := by
  change (matRow (reshape rows cols bytes) i).getD j 0x00 = _
  simp [matRow_reshape bytes hi, List.getD_eq_getElem?_getD, hj]

theorem isMat_reshape {bytes : List Byte} (h : bytes.length = rows * cols) :
    IsMat rows cols (reshape rows cols bytes) := by
  refine isMat_iff_matRow.mpr ⟨by simp [reshape], fun i hi => ?_⟩
  have hlast : i * cols + cols ≤ rows * cols := by rw [← Nat.succ_mul]; exact Nat.mul_le_mul_right cols hi
  rw [matRow_reshape bytes hi, List.length_take, List.length_drop, h]
  omega

/-- A matrix is read back from its payload. -/
theorem reshape_flatten (ha : IsMat rows cols a) : reshape rows cols a.flatten = a :=
  mat_ext (isMat_reshape (length_flatten_mat ha)) ha fun i hi j hj => by rw [entry_reshape _ hi hj, flatten_getD ha hi hj]

/-! Products (R142). -/

theorem xorOver_congr {f g : Nat → Byte} (h : ∀ k < n, f k = g k) : xorOver n f = xorOver n g :=
  List.foldr_ext _ _ _ fun k hk _ => by rw [h k (List.mem_range.mp hk)]

theorem dot_eq_xorOver {row col : List Byte} (hrow : row.length = n) (hcol : col.length = n) :
    dot poly row col = xorOver n fun k => gmul poly (row.getD k 0x00) (col.getD k 0x00) := by
  have hlist : List.zipWith (gmul poly) row col =
      (List.range n).map fun k => gmul poly (row.getD k 0x00) (col.getD k 0x00) := by
    refine List.ext_getElem (by simp [hrow, hcol]) fun k hk hk' => ?_
    simp only [List.length_map, List.length_range] at hk'
    simp [hrow, hcol, hk']
  rw [dot, hlist, xorAll, List.foldr_map]
  rfl

@[simp] theorem length_matCol (b : Mat) (j : Nat) : (matCol b j).length = b.length := by simp [matCol]

theorem matCol_getD (b : Mat) (j k : Nat) : (matCol b j).getD k 0x00 = entry b k j :=
  List.getD_map b [] fun row => row.getD j 0x00

theorem isMat_matmul (ha : a.length = rows) (b : Mat) (cols : Nat) : IsMat rows cols (matmul poly a b cols) :=
  ⟨(matmul_length a b cols).trans ha, fun _ h => matmul_row_length a b cols h⟩

/-- Entry (i, j) of a product as the XOR over k (R142). -/
theorem entry_matmul_eq_xorOver (ha : IsMat rows n a) (hb : b.length = n) (hi : i < rows) (hj : j < cols) :
    entry (matmul poly a b cols) i j = xorOver n fun k => gmul poly (entry a i k) (entry b k j) := by
  rw [entry_matmul a b cols i j (ha.1 ▸ hi) hj,
    dot_eq_xorOver (length_matRow ha hi) ((length_matCol b j).trans hb)]
  simp only [matCol_getD]
  rfl

/-- An entry in a row past the last reads as 0x00. -/
theorem entry_of_length_le (h : a.length ≤ i) (j : Nat) : entry a i j = 0x00 := by
  simp [entry, h]

/-! The checks of the matrix commands, and how they end. -/

theorem complete_answered (words : List Word) (payload : List Byte) (s : State) :
    complete words payload s = .next (answered s (0x00 :: (words ++ pack payload))) := by
  rw [complete_eq, okResponse, statusWord_ok]
  rfl

section
variable {s : State} {d e : Word} {q : Result}

theorem dimOk_iff : dimOk s.params d = true ↔ DimOk s d := decide_eq_true_iff

/-- A dimension outside 1..MAX_DIM is refused with InvalidDimensions (R140). -/
theorem checkDims_refused (h : ¬ (DimOk s d ∧ DimOk s e)) :
    (if ¬ dimOk s.params d ∨ ¬ dimOk s.params e then raise .invalidDimensions s else q) = .next (answered s [0x02]) := by
  rw [if_pos (by rwa [← not_and_or, dimOk_iff, dimOk_iff])]
  exact raise_eq_of_plain s (by decide) (by decide)

theorem checkDims_passed (hd : DimOk s d) (he : DimOk s e) :
    (if ¬ dimOk s.params d ∨ ¬ dimOk s.params e then raise .invalidDimensions s else q) = q := by
  rw [if_neg]
  rw [← not_and_or, not_not, dimOk_iff, dimOk_iff]
  exact ⟨hd, he⟩

theorem exec_matInv_of_ginvert_eq_none (hd : DimOk s d) (ha : IsMat d.toNat d.toNat a)
    (h : ginvert s.params.gfPoly s.params.pivotMode d.toNat a = none) :
    exec (.matInv d d a.flatten) s = .next (answered s [0x05]) := by
  refine (checkDims_passed hd hd).trans ((if_neg (not_not.mpr rfl)).trans ?_)
  rw [reshape_flatten ha, h]
  exact raise_eq_of_plain s (by decide) (by decide)

theorem exec_matInv_of_ginvert_eq_some (hd : DimOk s d) (ha : IsMat d.toNat d.toNat a)
    (h : ginvert s.params.gfPoly s.params.pivotMode d.toNat a = some x) :
    exec (.matInv d d a.flatten) s = .next (answered s (0x00 :: d :: pack x.flatten)) := by
  refine (checkDims_passed hd hd).trans ((if_neg (not_not.mpr rfl)).trans ?_)
  rw [reshape_flatten ha, h]
  exact complete_answered [d] x.flatten s

end

/-! The lengths of a list of buffers (R143). -/

theorem equalLengths_iff (bufs : List Buffer) : equalLengths bufs = true ↔ ∀ b ∈ bufs, b.length = firstLength bufs := by
  simp [equalLengths]

theorem not_equalLengths {bufs : List Buffer} (h : ∃ b ∈ bufs, ∃ b' ∈ bufs, b.length ≠ b'.length) :
    ¬ equalLengths bufs = true := by
  obtain ⟨b, hb, b', hb', hne⟩ := h
  rw [equalLengths_iff]
  exact fun hall => hne ((hall b hb).trans (hall b' hb').symm)

theorem firstLength_eq {bufs : List Buffer} {len : Nat} (hpos : 0 < bufs.length) (h : ∀ b ∈ bufs, b.length = len) :
    firstLength bufs = len := by
  cases bufs with
  | nil => exact absurd hpos (Nat.lt_irrefl 0)
  | cons b bufs => exact h b List.mem_cons_self

/-- MAT_MUL of as many buffers as A has columns, all of one length: what is left is the check of that length. -/
theorem exec_matMul_of_lengths {s : State} {m n : Word} {bufs : List Buffer} {len : Nat} (a : List Byte) (hm : DimOk s m)
    (hn : DimOk s n) (hcount : bufs.length = n.toNat) (hlen : ∀ b ∈ bufs, b.length = len) :
    exec (.matMul m n a bufs) s =
      if len = 0 ∨ s.params.maxLen < len then raise .invalidDimensions s
      else complete [m, countWord len] (matmul s.params.gfPoly (reshape m.toNat n.toNat a) bufs len).flatten s := by
  have hfirst : firstLength bufs = len := firstLength_eq (hcount ▸ hn.1) hlen
  subst hfirst
  have hequal := (equalLengths_iff bufs).mpr hlen
  exact (checkDims_passed hm hn).trans ((if_neg (not_not.mpr hcount)).trans (if_neg (not_not.mpr hequal)))

end Sys2Proof.Machine

namespace Sys2Proof.Proofs

open Sys2Proof.Machine Sys2Proof.Claims

/-- Settles O37: in mode `partial` the one block that decides is the whole matrix, and an inverse is unique. -/
theorem partialPivotingInvertsExactlyTheInvertible : Obligations.PartialPivotingInvertsExactlyTheInvertible := by
  intro s n a hp hmode hn ha
  rcases ginvert_cases hp s.params.pivotMode ha with ⟨y, hrun, hy, hay, _⟩ | ⟨hrun, t, _, ⟨_, htn⟩, hno⟩
  · refine ⟨fun x hx hax => ?_, fun hno => absurd ⟨y, hy, hay⟩ hno⟩
    rw [isInverse_unique hx hy hax hay]
    exact exec_matInv_of_ginvert_eq_some hn ha hrun
  · obtain rfl := htn hmode
    exact ⟨fun x _ hax => absurd ⟨x, hax⟩ hno, fun _ => exec_matInv_of_ginvert_eq_none hn ha hrun⟩

/-- Settles O38: in mode `none` every leading block decides. -/
theorem noPivotingInvertsExactlyWithInvertibleLeadingBlocks :
    Obligations.NoPivotingInvertsExactlyWithInvertibleLeadingBlocks := by
  intro s n a hp hmode hn ha
  rcases ginvert_cases hp s.params.pivotMode ha with ⟨y, hrun, hy, hay, hall⟩ | ⟨hrun, t, h1, ⟨htn, _⟩, hno⟩
  · refine ⟨fun _ x hx hax => ?_, fun ⟨t, _, htn, hno⟩ => absurd (hall t ⟨htn, by simp [hmode]⟩) hno⟩
    rw [isInverse_unique hx hy hax hay]
    exact exec_matInv_of_ginvert_eq_some hn ha hrun
  · exact ⟨fun hall => absurd (hall t h1 htn) hno, fun _ => exec_matInv_of_ginvert_eq_none hn ha hrun⟩

/-- Settles O33: each entry is the `dot` of a row and a column of n bytes. -/
theorem matmulEntriesAreTheXorOfProducts : Obligations.MatmulEntriesAreTheXorOfProducts :=
  fun _ _ _ len _ b ha hb =>
    ⟨isMat_matmul ha.1 b len, fun _ hi _ hj => entry_matmul_eq_xorOver ha hb.1 hi hj⟩

/-- Settles O34: an entry of the product reads the buffers through `matCol` alone. -/
theorem byteLanesAreIndependent : Obligations.ByteLanesAreIndependent := by
  intro poly a b b' len len' j hj hj' hcol i
  by_cases hi : i < a.length
  · rw [entry_matmul a b len i j hi hj, entry_matmul a b' len' i j hi hj', hcol]
  · rw [entry_of_length_le (by simpa using hi), entry_of_length_le (by simpa using hi)]

/-- Settles O35: the checks pass or fail one after the other, and the payload holds the product's entries row by row. -/
theorem matMulChecksInOrderAndReturnsTheProduct : Obligations.MatMulChecksInOrderAndReturnsTheProduct := by
  intro s m n a bufs hwf
  obtain ⟨hbytes, _⟩ := (wellFormed_matMul_iff m n a bufs).mp hwf
  refine ⟨congrArg (· :: _) headerWord_matMul, checkDims_refused, fun hm hn => ⟨fun hcount => ?_, fun hcount =>
    ⟨fun hlens => ?_, fun len hlen => ⟨fun hbad => ?_, fun hpos hmax => ?_⟩⟩⟩⟩
  · exact (checkDims_passed hm hn).trans ((if_pos hcount).trans (raise_eq_of_plain s (by decide) (by decide)))
  · exact (checkDims_passed hm hn).trans ((if_neg (not_not.mpr hcount)).trans
      ((if_pos (not_equalLengths hlens)).trans (raise_eq_of_plain s (by decide) (by decide))))
  · rw [exec_matMul_of_lengths a hm hn hcount hlen, if_pos hbad]
    exact raise_eq_of_plain s (by decide) (by decide)
  · have ha : IsMat m.toNat n.toNat (reshape m.toNat n.toNat a) :=
      isMat_reshape hbytes
    have hc := isMat_matmul (poly := s.params.gfPoly) ha.1 bufs len
    refine ⟨_, length_flatten_mat hc, fun i hi j hj => ?_, ?_⟩
    · rw [flatten_getD hc hi hj, entry_matmul_eq_xorOver ha hcount hi hj]
      exact xorOver_congr fun k hk => by rw [entry_reshape a hi hk]
    · rw [exec_matMul_of_lengths a hm hn hcount hlen, if_neg (by omega)]
      exact complete_answered _ _ s

/-- Settles O36: the checks pass or fail one after the other, and the matrix is read back from its payload. -/
theorem matInvChecksInOrderAndReturnsGinvert : Obligations.MatInvChecksInOrderAndReturnsGinvert := by
  intro s rows cols a ha
  refine ⟨congrArg (· :: _) headerWord_matInv, checkDims_refused, fun hr hc => ⟨fun hne => ?_, ?_⟩⟩
  · exact (checkDims_passed hr hc).trans ((if_pos hne).trans (raise_eq_of_plain s (by decide) (by decide)))
  · rintro rfl
    exact ⟨exec_matInv_of_ginvert_eq_none hr ha, fun x => exec_matInv_of_ginvert_eq_some hr ha⟩

/-- Settles O32: the zero matrix's payload is rows*cols zero bytes. -/
theorem matBuildReturnsTheZeroMatrix : Obligations.MatBuildReturnsTheZeroMatrix := by
  intro s rows cols
  refine ⟨(encode_of_payload_nil rfl).trans (congrArg (· :: _) headerWord_matBuild), checkDims_refused, fun hr hc => ?_⟩
  refine (checkDims_passed hr hc).trans ((complete_answered _ _ s).trans ?_)
  rw [zeroMat, List.flatten_replicate_replicate]
  rfl

end Sys2Proof.Proofs
end

section
/-! PROOFS, family 42_encoding_matrix_builder. Each column of the working matrix of R172, read in the field of residues, is
a polynomial evaluated at the points byte(0), byte(1), …: a step adds to each column a multiple of column r. While rows
0 to r-1 are the identity's, column r is a nonzero polynomial of degree r with the r zeros byte(0), …, byte(r-1), so the
pivot is not a further zero. At the end the columns have degree below cols and are 0 or 1 at the first cols points: they
interpolate, which is VDM * V_top = V, and cols rows of V on distinct points have a nonzero determinant. -/

namespace Sys2Proof.Machine

open Sys2Proof.Claims Polynomial

variable {poly : BitVec 9} {m : Mat} {pivot : Byte} {rows cols n i j r c1 : Nat}

/-! Shapes of the builder's matrices (R170, R172). -/

theorem isMat_vandermonde (rows cols : Nat) : IsMat rows cols (vandermonde poly rows cols) := by
  refine ⟨vandermonde_length rows cols, fun row hrow => ?_⟩
  obtain ⟨i, _, rfl⟩ := List.mem_map.mp hrow
  simp

theorem matRow_scaleColumn (hi : i < m.length) :
    matRow (scaleColumn poly r pivot m) i =
      if r ≤ i then (matRow m i).set r (gdiv poly (entry m i r) pivot) else matRow m i := by
  simp [matRow, scaleColumn, entry, hi]

theorem matRow_clearColumn (hi : i < m.length) :
    matRow (clearColumn poly r m c1) i =
      if c1 = r ∨ entry m r c1 = 0x00 then matRow m i
      else (matRow m i).set c1 (gadd (entry m i c1) (gmul poly (entry m r c1) (entry m i r))) := by
  unfold clearColumn
  dsimp only
  split
  · rfl
  · simp [matRow, entry, hi]

theorem isMat_scaleColumn (hm : IsMat rows cols m) : IsMat rows cols (scaleColumn poly r pivot m) := by
  refine isMat_iff_matRow.mpr ⟨(scaleColumn_length r pivot m).trans hm.1, fun i hi => ?_⟩
  rw [matRow_scaleColumn (hm.1 ▸ hi)]
  split <;> simp [length_matRow hm hi]

theorem isMat_clearColumn (hm : IsMat rows cols m) : IsMat rows cols (clearColumn poly r m c1) := by
  refine isMat_iff_matRow.mpr ⟨(clearColumn_length r m c1).trans hm.1, fun i hi => ?_⟩
  rw [matRow_clearColumn (hm.1 ▸ hi)]
  split <;> simp [length_matRow hm hi]

theorem isMat_foldl_clearColumn (hm : IsMat rows cols m) (l : List Nat) :
    IsMat rows cols (l.foldl (clearColumn poly r) m) :=
  List.foldlRecOn l _ hm fun _ h _ _ => isMat_clearColumn h

theorem isMat_vdmStep (hm : IsMat rows cols m) (r : Nat) : IsMat rows cols (vdmStep poly cols m r) :=
  isMat_foldl_clearColumn (isMat_scaleColumn hm) _

theorem isMat_vdm (rows cols : Nat) : IsMat rows cols (vdm poly rows cols) :=
  List.foldlRecOn _ _ (isMat_vandermonde rows cols) fun _ h r _ => isMat_vdmStep h r

theorem entry_vandermonde (hi : i < rows) (hj : j < cols) :
    entry (vandermonde poly rows cols) i j = gexpRepeat poly (BitVec.ofNat 8 i) j := by
  simp [entry, vandermonde, hi, hj, gexp_eq_gexpRepeat]

/-- 0 to the c-th power, with 0^0 = 1 (R117). -/
theorem gexpRepeat_zero_base (c : Nat) : gexpRepeat poly 0x00 c = if c = 0 then 0x01 else 0x00 := by
  cases c with
  | zero => rfl
  | succ c => exact gmul_zero _

/-! The field of residues under legal parameters. -/

/-- Every residue is a byte's: there are 2^8 of both. -/
theorem residue_surjective (poly : BitVec 9) : Function.Surjective (residue poly) := by
  have hdegree : (modulus poly).natDegree = 8 := natDegree_eq_of_degree_eq_some (degree_modulus poly)
  have hmonic : (modulus poly).Monic :=
    (monic_X_pow 8).add_of_left ((degree_polyOf_lt _).trans_eq (degree_X_pow 8).symm)
  have := (AdjoinRoot.powerBasis' hmonic).finite
  have := Module.finite_of_finite (ZMod 2) (M := AdjoinRoot (modulus poly))
  have hcard : Nat.card (AdjoinRoot (modulus poly)) = 2 ^ 8 := by
    rw [Module.natCard_eq_pow_finrank (K := ZMod 2), (AdjoinRoot.powerBasis' hmonic).finrank, Nat.card_zmod,
      AdjoinRoot.powerBasis'_dim, hdegree]
  have hbytes : Nat.card Byte = 2 ^ 8 := (Nat.card_congr BitVec.equivFin.toEquiv).trans (Nat.card_fin _)
  exact ((residue_injective poly).bijective_of_nat_card_le (hcard.trans hbytes.symm).le).surjective

section
variable {p : Params} (hp : p.legal = true)
include hp

theorem isDomain_residues : IsDomain (AdjoinRoot (modulus p.gfPoly)) := by
  have : Nontrivial (AdjoinRoot (modulus p.gfPoly)) := nontrivial_of_ne 1 0 residue_one_ne_zero
  have : NoZeroDivisors (AdjoinRoot (modulus p.gfPoly)) := by
    refine ⟨fun {x y} hxy => ?_⟩
    obtain ⟨a, rfl⟩ := residue_surjective _ x
    obtain ⟨b, rfl⟩ := residue_surjective _ y
    rw [← residue_gmul, ← residue_zero] at hxy
    rcases (gmul_eq_zero_iff hp a b).mp (residue_injective _ hxy) with rfl | rfl
    · exact .inl residue_zero
    · exact .inr residue_zero
  exact NoZeroDivisors.to_isDomain _

theorem pow_255_of_ne_zero {x : AdjoinRoot (modulus p.gfPoly)} (hx : x ≠ 0) : x ^ 255 = 1 := by
  obtain ⟨b, rfl⟩ := residue_surjective _ x
  exact residue_pow_255_of_ne_zero hp fun hb => hx (hb ▸ residue_zero)

end

/-- The evaluation point byte(i) (R171). -/
noncomputable def point (poly : BitVec 9) (i : Nat) : AdjoinRoot (modulus poly) := residue poly (BitVec.ofNat 8 i)

@[simp] theorem point_zero : point poly 0 = 0 := residue_zero

/-- The first 256 points are distinct (R171). -/
theorem point_injOn : Set.InjOn (point poly) (Set.Iio 256) := by
  intro i hi k hk h
  have hbytes := congrArg BitVec.toNat (residue_injective poly h)
  rwa [BitVec.toNat_ofNat, BitVec.toNat_ofNat, Nat.mod_eq_of_lt hi, Nat.mod_eq_of_lt hk] at hbytes

theorem point_injOn_range (hn : n ≤ 256) : Set.InjOn (point poly) (Finset.range n) :=
  point_injOn.mono fun _ hi => (Finset.mem_range.mp hi).trans_le hn

/-! The builder's matrices in residues. -/

theorem coef_vandermonde (hi : i < rows) (hj : j < cols) :
    coef poly (vandermonde poly rows cols) i j = point poly i ^ j := by
  rw [coef, entry_vandermonde hi hj, residue_gexpRepeat, point]

theorem coef_of_entry_eq_zero (h : entry m i j = 0x00) : coef poly m i j = 0 :=
  (congrArg (residue poly) h).trans residue_zero

theorem coef_scaleColumn (hm : IsMat rows cols m) (hi : i < rows) (hj : j < cols) :
    coef poly (scaleColumn poly r pivot m) i j =
      if r ≤ i ∧ j = r then residue poly pivot ^ 254 * coef poly m i r else coef poly m i j := by
  have hrow : j < (matRow m i).length := (length_matRow hm hi).symm ▸ hj
  change residue poly ((matRow (scaleColumn poly r pivot m) i).getD j 0x00) = _
  rw [matRow_scaleColumn (hm.1 ▸ hi)]
  by_cases hri : r ≤ i
  · by_cases hjr : j = r
    · subst hjr
      simp [hri, hrow, coef, mul_comm]
    · simp [hri, hjr, Ne.symm hjr, coef, entry, matRow]
  · simp [hri, coef, entry, matRow]

theorem coef_clearColumn (hm : IsMat rows cols m) (hi : i < rows) (hj : j < cols) :
    coef poly (clearColumn poly r m c1) i j =
      if j = c1 ∧ j ≠ r then coef poly m i j + coef poly m r j * coef poly m i r else coef poly m i j := by
  have hrow : j < (matRow m i).length := (length_matRow hm hi).symm ▸ hj
  change residue poly ((matRow (clearColumn poly r m c1) i).getD j 0x00) = _
  rw [matRow_clearColumn (hm.1 ▸ hi)]
  by_cases hskip : c1 = r ∨ entry m r c1 = 0x00
  · rw [if_pos hskip]
    split
    · next h =>
      obtain ⟨rfl, hjr⟩ := h
      rw [coef_of_entry_eq_zero (hskip.resolve_left hjr), zero_mul, add_zero]
      rfl
    · rfl
  · rw [if_neg hskip]
    by_cases hjc : j = c1
    · subst hjc
      have hjr : j ≠ r := fun h => hskip (.inl h)
      simp [hjr, hrow, coef, gadd]
    · simp [hjc, Ne.symm hjc, coef, entry, matRow]

/-- Clearing the first n columns adds to each but column r its entry in row r times column r (R173(b)). -/
theorem coef_foldl_clearColumn (hm : IsMat rows cols m) (hr : r < cols) (hrr : r < rows) (hi : i < rows)
    (hj : j < cols) (n : Nat) :
    coef poly ((List.range n).foldl (clearColumn poly r) m) i j =
      if j < n ∧ j ≠ r then coef poly m i j + coef poly m r j * coef poly m i r else coef poly m i j := by
  induction n generalizing i j with
  | zero => simp
  | succ n ih =>
    rw [List.range_succ, List.foldl_append, List.foldl_cons, List.foldl_nil,
      coef_clearColumn (isMat_foldl_clearColumn hm _) hi hj, ih hi hj, ih hrr hj, ih hi hr]
    rcases Nat.lt_trichotomy j n with hjn | rfl | hjn
    · simp [hjn, hjn.ne, Nat.lt_succ_of_lt hjn]
    · simp
    · simp [hjn.ne', hjn.not_gt, Nat.not_lt.mpr hjn]

/-- Step r on residues. Above row r column r is zero, so scaling the rows from r on scales the column (R173(c)). -/
theorem coef_vdmStep (hm : IsMat rows cols m) (hunit : UnitColumns poly r cols m) (hr : r < cols) (hrr : r < rows)
    (hi : i < rows) (hj : j < cols) :
    coef poly (vdmStep poly cols m r) i j =
      if j = r then coef poly m r r ^ 254 * coef poly m i r
      else coef poly m i j + coef poly m r j * coef poly m r r ^ 254 * coef poly m i r := by
  have hscale {k : Nat} (hk : k < rows) :
      coef poly (scaleColumn poly r (entry m r r) m) k r = coef poly m r r ^ 254 * coef poly m k r := by
    rw [coef_scaleColumn hm hk hr]
    split
    · rfl
    · have hkr : k < r := by omega
      rw [hunit k hkr r hr, if_neg hkr.ne, mul_zero]
  rw [vdmStep, coef_foldl_clearColumn (isMat_scaleColumn hm) hr hrr hi hj, hscale hi]
  by_cases hjr : j = r
  · subst hjr
    simp [hscale hi]
  · simp [hj, hjr, coef_scaleColumn hm hi hj, coef_scaleColumn hm hrr hj, mul_assoc]

/-! The columns as polynomials. -/

/-- What holds of the working matrix before step r, with its columns as the polynomials q at the points: rows 0 to r-1 are
the identity's, the columns before r have degree below r, and every later column still has the degree of its index. -/
structure ColumnsCleared (poly : BitVec 9) (rows cols r : Nat) (m : Mat) (q : Nat → (AdjoinRoot (modulus poly))[X]) :
    Prop where
  shape : IsMat rows cols m
  unitRows : UnitColumns poly r cols m
  coef_eq_eval : ∀ i < rows, ∀ j < cols, coef poly m i j = (q j).eval (point poly i)
  mem_degreeLT : ∀ j < r, q j ∈ degreeLT _ r
  degree_eq : ∀ j ≥ r, (q j).degree = j

/-- The columns' polynomials after step r. -/
noncomputable def clearedColumns (poly : BitVec 9) (m : Mat) (r : Nat) (q : Nat → (AdjoinRoot (modulus poly))[X])
    (j : Nat) : (AdjoinRoot (modulus poly))[X] :=
  if j = r then coef poly m r r ^ 254 • q r else q j + (coef poly m r j * coef poly m r r ^ 254) • q r

variable {q : Nat → (AdjoinRoot (modulus poly))[X]}

/-- An invertible pivot makes row r the identity's and keeps the rows above. -/
theorem unitColumns_vdmStep (hm : IsMat rows cols m) (hunit : UnitColumns poly r cols m) (hr : r < cols) (hrr : r < rows)
    (hpivot : coef poly m r r ^ 254 * coef poly m r r = 1) : UnitColumns poly (r + 1) cols (vdmStep poly cols m r) := by
  intro i hi j hj
  rw [coef_vdmStep hm hunit hr hrr (by omega) hj]
  rcases Nat.lt_succ_iff_lt_or_eq.mp hi with hir | rfl
  · rw [hunit i hir r hr, if_neg hir.ne, mul_zero, mul_zero, add_zero, hunit i hir j hj]
    exact ite_eq_right_iff.mpr fun hjr => (if_neg (by omega)).symm
  · rw [hpivot, mul_assoc, hpivot, mul_one, coef, residue_add_self]
    simp only [eq_comm]

theorem degree_clearedColumns (hlow : ∀ j < r, q j ∈ degreeLT _ r) (hdegree : ∀ j ≥ r, (q j).degree = j) :
    (∀ j < r + 1, clearedColumns poly m r q j ∈ degreeLT _ (r + 1)) ∧
      ∀ j ≥ r + 1, (clearedColumns poly m r q j).degree = j := by
  have hqr : (q r).degree = r := hdegree r le_rfl
  have hqr_mem : q r ∈ degreeLT _ (r + 1) := mem_degreeLT.mpr (hqr ▸ by exact_mod_cast Nat.lt_succ_self r)
  refine ⟨fun j hj => ?_, fun j hj => ?_⟩
  · rw [clearedColumns]
    split
    · exact Submodule.smul_mem _ _ hqr_mem
    · exact add_mem (degreeLT_mono (Nat.le_succ r) (hlow j (by omega))) (Submodule.smul_mem _ _ hqr_mem)
  · rw [clearedColumns, if_neg (by omega), degree_add_eq_left_of_degree_lt, hdegree j (by omega)]
    rw [hdegree j (by omega)]
    exact (degree_smul_le _ _).trans_lt (hqr ▸ by exact_mod_cast hj)

section
variable {p : Params} (hp : p.legal = true)
include hp

/-- Before the first step: column j is x^j, and row 0 is the identity's (R170). -/
theorem columnsCleared_vandermonde (rows cols : Nat) (hrows : 0 < rows) :
    ColumnsCleared p.gfPoly rows cols 1 (vandermonde p.gfPoly rows cols) fun j => X ^ j := by
  have := isDomain_residues hp
  refine ⟨isMat_vandermonde rows cols, fun i hi j hj => ?_, fun i hi j hj => ?_, fun j hj => ?_,
    fun j _ => degree_X_pow j⟩
  · obtain rfl : i = 0 := by omega
    rw [coef_vandermonde hrows hj, point_zero, zero_pow_eq]
    simp only [eq_comm]
  · rw [coef_vandermonde hi hj, eval_pow, eval_X]
  · obtain rfl : j = 0 := by omega
    exact mem_degreeLT.mpr (by simp)

/-- The pivot is nonzero (R176): column r has degree r and the r points before byte(r) as zeros. -/
theorem ColumnsCleared.pivot_ne_zero {q : Nat → (AdjoinRoot (modulus p.gfPoly))[X]}
    (h : ColumnsCleared p.gfPoly rows cols r m q) (hr : r < cols) (hrr : r < rows) (hrows : rows ≤ 256) :
    coef p.gfPoly m r r ≠ 0 := by
  have := isDomain_residues hp
  intro hpivot
  have hqr := h.degree_eq r le_rfl
  have hzero : q r = 0 := by
    refine eq_zero_of_degree_lt_of_eval_index_eq_zero (Finset.range (r + 1))
      (point_injOn_range (by omega)) ?_ fun i hi => ?_
    · rw [hqr, Finset.card_range]
      exact_mod_cast Nat.lt_succ_self r
    · rw [← h.coef_eq_eval i (by have := Finset.mem_range.mp hi; omega) r hr]
      rcases Nat.lt_succ_iff_lt_or_eq.mp (Finset.mem_range.mp hi) with hir | rfl
      · rw [h.unitRows i hir r hr, if_neg hir.ne]
      · exact hpivot
  rw [hzero, degree_zero] at hqr
  exact WithBot.bot_ne_coe hqr

/-- One step of R172. -/
theorem ColumnsCleared.succ {q : Nat → (AdjoinRoot (modulus p.gfPoly))[X]}
    (h : ColumnsCleared p.gfPoly rows cols r m q) (hr : r < cols) (hcols : cols ≤ rows) (hrows : rows ≤ 256) :
    ColumnsCleared p.gfPoly rows cols (r + 1) (vdmStep p.gfPoly cols m r) (clearedColumns p.gfPoly m r q) := by
  have hrr : r < rows := by omega
  have hpivot : coef p.gfPoly m r r ^ 254 * coef p.gfPoly m r r = 1 := by
    rw [← pow_succ]
    exact pow_255_of_ne_zero hp (h.pivot_ne_zero hp hr hrr hrows)
  obtain ⟨hlow, hdegree⟩ := degree_clearedColumns (m := m) h.mem_degreeLT h.degree_eq
  refine ⟨isMat_vdmStep h.shape r, unitColumns_vdmStep h.shape h.unitRows hr hrr hpivot, fun i hi j hj => ?_, hlow,
    hdegree⟩
  rw [coef_vdmStep h.shape h.unitRows hr hrr hi hj, clearedColumns, h.coef_eq_eval i hi r hr, h.coef_eq_eval i hi j hj]
  split <;> simp

/-- The steps from r on, n of them. -/
theorem ColumnsCleared.foldl_vdmStep {q : Nat → (AdjoinRoot (modulus p.gfPoly))[X]}
    (h : ColumnsCleared p.gfPoly rows cols r m q) (hn : r + n ≤ cols) (hcols : cols ≤ rows) (hrows : rows ≤ 256) :
    ∃ q', ColumnsCleared p.gfPoly rows cols (r + n) ((List.range' r n).foldl (vdmStep p.gfPoly cols) m) q' := by
  induction n generalizing r m q with
  | zero => exact ⟨q, h⟩
  | succ n ih =>
    rw [List.range'_succ, List.foldl_cons, ← Nat.add_assoc, Nat.add_right_comm]
    exact ih (h.succ hp (by omega) hcols hrows) (by omega)

section
variable (hpos : 1 ≤ cols) (hcols : cols ≤ rows) (hrows : rows ≤ 256)
include hpos hcols hrows

/-- The finished matrix: identity on top, every column a polynomial of degree below cols (R175, R178). -/
theorem exists_columnsCleared_vdm :
    ∃ q, ColumnsCleared p.gfPoly rows cols cols (vdm p.gfPoly rows cols) q := by
  have h := (columnsCleared_vandermonde hp rows cols (by omega)).foldl_vdmStep hp (n := cols - 1) (by omega) hcols hrows
  rwa [Nat.add_sub_cancel' hpos] at h

/-- Row i of VDM takes the values at the first cols points of a polynomial of degree below cols to its value at point i:
the columns, weighted with these values, add up to a polynomial with the same values at these points. -/
theorem sum_coef_vdm_mul_eval (hi : i < rows) {f : (AdjoinRoot (modulus p.gfPoly))[X]} (hf : f ∈ degreeLT _ cols) :
    ∑ k ∈ Finset.range cols, coef p.gfPoly (vdm p.gfPoly rows cols) i k * f.eval (point p.gfPoly k) =
      f.eval (point p.gfPoly i) := by
  have := isDomain_residues hp
  obtain ⟨q, h⟩ := exists_columnsCleared_vdm hp hpos hcols hrows
  have hsum {l : Nat} (hl : l < rows) :
      (∑ k ∈ Finset.range cols, f.eval (point p.gfPoly k) • q k).eval (point p.gfPoly l) =
        ∑ k ∈ Finset.range cols, coef p.gfPoly (vdm p.gfPoly rows cols) l k * f.eval (point p.gfPoly k) := by
    rw [eval_finsetSum]
    refine Finset.sum_congr rfl fun k hk => ?_
    rw [h.coef_eq_eval l hl k (Finset.mem_range.mp hk), eval_smul, smul_eq_mul, mul_comm]
  rw [← hsum hi]
  congr 1
  refine eq_of_degrees_lt_of_eval_index_eq (Finset.range cols)
    (point_injOn_range (hcols.trans hrows)) ?_ ?_ fun l hl => ?_
  · rw [Finset.card_range]
    exact mem_degreeLT.mp (sum_mem fun k hk => Submodule.smul_mem _ _ (h.mem_degreeLT k (Finset.mem_range.mp hk)))
  · rw [Finset.card_range]
    exact mem_degreeLT.mp hf
  · have hlc := Finset.mem_range.mp hl
    rw [hsum (hlc.trans_le hcols), Finset.sum_eq_single_of_mem l hl]
    · rw [h.unitRows l hlc l hlc, if_pos rfl, one_mul]
    · intro k hk hkl
      rw [h.unitRows l hlc k (Finset.mem_range.mp hk), if_neg hkl.symm, zero_mul]

/-- The same for the powers of the points: the closed form of R175, entry by entry. -/
theorem sum_coef_vdm_mul_pow (hi : i < rows) (hj : j < cols) :
    ∑ k ∈ Finset.range cols, coef p.gfPoly (vdm p.gfPoly rows cols) i k * point p.gfPoly k ^ j =
      point p.gfPoly i ^ j := by
  have := isDomain_residues hp
  have hf : (X ^ j : (AdjoinRoot (modulus p.gfPoly))[X]) ∈ degreeLT _ cols :=
    mem_degreeLT.mpr ((degree_X_pow j).trans_lt (by exact_mod_cast hj))
  simpa using sum_coef_vdm_mul_eval hp hpos hcols hrows hi hf

theorem entry_vdm_top (hi : i < cols) (hj : j < cols) :
    entry (vdm p.gfPoly rows cols) i j = if i = j then 0x01 else 0x00 := by
  obtain ⟨q, h⟩ := exists_columnsCleared_vdm hp hpos hcols hrows
  apply residue_injective p.gfPoly
  refine (h.unitRows i hi j hj).trans ?_
  split
  · exact residue_one.symm
  · exact residue_zero.symm

theorem matmul_vdm_top :
    matmul p.gfPoly (vdm p.gfPoly rows cols) ((vandermonde p.gfPoly rows cols).take cols) cols =
      vandermonde p.gfPoly rows cols := by
  have hvdm : IsMat rows cols (vdm p.gfPoly rows cols) := isMat_vdm rows cols
  have htop : ((vandermonde p.gfPoly rows cols).take cols).length = cols := by simpa using hcols
  refine mat_ext (isMat_matmul hvdm.1 _ cols) (isMat_vandermonde rows cols) fun i hi j hj => ?_
  apply residue_injective p.gfPoly
  rw [entry_matmul_eq_xorOver hvdm htop hi hj, residue_xorOver]
  refine .trans (Finset.sum_congr rfl fun k hk => ?_)
    ((sum_coef_vdm_mul_pow hp hpos hcols hrows hi hj).trans (coef_vandermonde hi hj).symm)
  have hkc := Finset.mem_range.mp hk
  have hentry : entry ((vandermonde p.gfPoly rows cols).take cols) k j = entry (vandermonde p.gfPoly rows cols) k j := by
    simp [entry, List.getD_eq_getElem?_getD, hkc]
  rw [residue_gmul, hentry, ← coef_vandermonde (hkc.trans_le hcols) hj]
  rfl

end

end

/-! Selected rows (R177). -/

/-- Every square matrix of residues is one of bytes. -/
theorem exists_leadingBlock_eq (x : Matrix (Fin n) (Fin n) (AdjoinRoot (modulus poly))) :
    ∃ b : Mat, IsMat n n b ∧ leadingBlock poly n b = x := by
  choose byte hbyte using residue_surjective poly
  refine ⟨List.ofFn fun i => List.ofFn fun j => byte (x i j), ⟨by simp, fun row hrow => ?_⟩, ?_⟩
  · obtain ⟨i, rfl⟩ := (List.mem_ofFn' _ _).mp hrow
    simp
  · ext i j
    simp [leadingBlock, coef, entry, hbyte]

/-- A matrix of bytes with an invertible determinant has an inverse. -/
theorem exists_isInverse_of_isUnit_det {a : Mat} (h : IsUnit (leadingBlock poly n a).det) :
    ∃ x, IsMat n n x ∧ IsInverse poly n a x := by
  obtain ⟨x, hx, hblock⟩ := exists_leadingBlock_eq (poly := poly) (leadingBlock poly n a)⁻¹
  exact ⟨x, hx, isInverse_iff.mpr (hblock ▸ Matrix.mul_nonsing_inv _ h)⟩

/-- The selected rows of VDM, times V_top, are the Vandermonde matrix on the selected points. -/
theorem leadingBlock_selected_mul {p : Params} (hp : p.legal = true) {sel : List Nat} (hpos : 1 ≤ cols)
    (hcols : cols ≤ rows) (hrows : rows ≤ 256) (hlen : sel.length = cols) (hsel : ∀ i ∈ sel, i < rows) :
    leadingBlock p.gfPoly cols (sel.map (matRow (vdm p.gfPoly rows cols))) *
        leadingBlock p.gfPoly cols (vandermonde p.gfPoly rows cols) =
      Matrix.vandermonde fun i : Fin cols => point p.gfPoly (sel[(i : Nat)]) := by
  ext i j
  have hi : (i : Nat) < sel.length := hlen ▸ i.isLt
  have hrow (k : Nat) : coef p.gfPoly (sel.map (matRow (vdm p.gfPoly rows cols))) i k =
      coef p.gfPoly (vdm p.gfPoly rows cols) (sel[(i : Nat)]) k := by
    simp [coef, entry, matRow, hi]
  rw [leadingBlock_mul_apply, Matrix.vandermonde_apply,
    ← sum_coef_vdm_mul_pow hp hpos hcols hrows (hsel _ (List.getElem_mem hi)) j.isLt]
  refine Finset.sum_congr rfl fun k hk => ?_
  rw [hrow, coef_vandermonde ((Finset.mem_range.mp hk).trans_le hcols) j.isLt]

/-- Distinct points have an invertible Vandermonde matrix (R177). -/
theorem isUnit_det_vandermonde_points {p : Params} (hp : p.legal = true) {sel : List Nat} (hlen : sel.length = cols)
    (hnodup : sel.Nodup) (hsel : ∀ i ∈ sel, i < 256) :
    IsUnit (Matrix.vandermonde fun i : Fin cols => point p.gfPoly (sel[(i : Nat)])).det := by
  have := isDomain_residues hp
  have hinj : Function.Injective fun i : Fin cols => point p.gfPoly (sel[(i : Nat)]) := fun i k hik =>
    Fin.ext (hnodup.getElem_inj_iff.mp (point_injOn (hsel _ (List.getElem_mem _)) (hsel _ (List.getElem_mem _)) hik))
  exact .of_pow_eq_one (pow_255_of_ne_zero hp (Matrix.det_vandermonde_ne_zero_iff.mpr hinj)) (by decide)

/-! How VDM_BUILD ends (R174). -/

theorem exec_vdmBuild_refused {s : State} {d e : Word} (h : ¬ (1 ≤ e.toNat ∧ e.toNat ≤ d.toNat ∧ d.toNat ≤ 256)) :
    exec (.vdmBuild d e) s = .next (answered s [0x02]) :=
  (if_pos h).trans (raise_eq_of_plain s (by decide) (by decide))

theorem exec_vdmBuild_accepted {s : State} {d e : Word} (h : 1 ≤ e.toNat ∧ e.toNat ≤ d.toNat ∧ d.toNat ≤ 256) :
    exec (.vdmBuild d e) s = .next
      (answered s (0x00 :: d :: e :: pack (vdm s.params.gfPoly d.toNat e.toNat).flatten)) :=
  (if_neg (not_not.mpr h)).trans (complete_answered _ _ s)

end Sys2Proof.Machine

namespace Sys2Proof.Proofs

open Sys2Proof.Machine Sys2Proof.Claims

/-- Settles O41: the columns of the finished matrix interpolate at the first cols points. -/
theorem vdmTopBlockIsTheIdentity : Obligations.VdmTopBlockIsTheIdentity :=
  fun _ _ _ hp hpos hcols hrows =>
    ⟨fun _ hi _ hj => entry_vdm_top hp hpos hcols hrows hi hj, matmul_vdm_top hp hpos hcols hrows⟩

/-- Settles O42: the selected rows times V_top are a Vandermonde matrix on distinct points, so their determinant divides a
unit. -/
theorem anyColsRowsOfVdmAreInvertible : Obligations.AnyColsRowsOfVdmAreInvertible := by
  intro p rows cols sel hp hpos hcols hrows hlen hnodup hsel
  have hunit := isUnit_det_vandermonde_points hp hlen hnodup fun i hi => (hsel i hi).trans_le hrows
  rw [← leadingBlock_selected_mul hp hpos hcols hrows hlen hsel, Matrix.det_mul] at hunit
  exact exists_isInverse_of_isUnit_det (isUnit_of_mul_isUnit_left hunit)

/-- Settles O39: the check passes or fails, and every step of the builder keeps the shape. -/
theorem vdmBuildReturnsTheEncodingMatrix : Obligations.VdmBuildReturnsTheEncodingMatrix :=
  fun _ rows cols =>
    ⟨(encode_of_payload_nil rfl).trans (congrArg (· :: _) headerWord_vdmBuild), exec_vdmBuild_refused,
      fun hpos hcols hrows => ⟨isMat_vdm rows.toNat cols.toNat, exec_vdmBuild_accepted ⟨hpos, hcols, hrows⟩⟩⟩

/-- Settles O40: `gexp` is repeated multiplication, and 0x00 times itself is 0x00. -/
theorem vandermondeEntriesArePowers : Obligations.VandermondeEntriesArePowers := by
  intro poly rows cols r c hr hc
  refine ⟨entry_vandermonde hr hc, entry_vandermonde hr (Nat.zero_lt_of_lt hc), ?_⟩
  rw [entry_vandermonde (Nat.zero_lt_of_lt hr) hc]
  exact gexpRepeat_zero_base c

end Sys2Proof.Proofs
end

section
/-! PROOFS, family 43_raid_engine. A coded array is EM times the data, and its first K rows are the data. K selected
rows of EM have an inverse, so RECON_DATA's rebuilt data give every selected slot its own buffer again, whatever it
holds; on coded slots they are the data. A selected parity slot is then valid, so RECON_CORRUPTION goes on from it. In
mode `none` the elimination needs every leading block of the selected rows: such a block has an inverse when no row of it
is a later data row, and one has a zero row when a present data slot comes after an absent one. -/

namespace Sys2Proof.Machine

open Sys2Proof.Claims

variable {s t : State} {poly : BitVec 9} {a b d x rows : Mat} {sel : List Nat} {mask : List Bool} {n i j c len : Nat}

/-! The disk array by slots. -/

theorem State.Configured.length_slots (hs : s.Configured) : s.slots.length = s.total :=
  ((Memory.wf_iff _ _ _).mp hs.slotsWf).1

theorem slotRead_ne_absent_iff : s.slotRead i ≠ .absent ↔ s.isPresent i = true := by
  rw [Ne, ← isPresent_eq_false_iff, Bool.not_eq_false]

theorem buf_of_slotRead {buf : Buffer} (h : s.slotRead i = .present buf) : s.buf i = buf := by
  rw [State.buf, h, Slot.bytes]

theorem slotRead_eq_present_buf (h : s.slotRead i ≠ .absent) : s.slotRead i = .present (s.buf i) :=
  slotRead_of_isPresent (slotRead_ne_absent_iff.mp h)

theorem State.Configured.length_buf (hs : s.Configured) (h : s.slotRead i ≠ .absent) :
    (s.buf i).length = s.cfgShardLen :=
  Memory.length_buf hs.slotsWf (slotRead_ne_absent_iff.mp h)

theorem map_range_getD (f : Nat → Slot) (hi : i < n) : ((List.range n).map f).getD i .absent = f i := by
  simp [hi]

theorem data_lt_total (hc : c < s.cfgK) : c < s.total := hc.trans_le (Nat.le_add_right _ _)

theorem parity_lt_total (hj : j < s.cfgM) : s.cfgK + j < s.total := Nat.add_lt_add_left hj _

theorem exists_parity_index (hi : i < s.total) (hk : s.cfgK ≤ i) : ∃ j < s.cfgM, i = s.cfgK + j := by
  obtain ⟨j, rfl⟩ := Nat.exists_eq_add_of_le hk
  exact ⟨j, Nat.add_lt_add_iff_left.mp hi, rfl⟩

/-- The slots that a function of the index lists. -/
theorem slots_eq_map_range {f : Nat → Slot} (hlen : s.slots.length = n) (h : ∀ i < n, s.slotRead i = f i) :
    s.slots = (List.range n).map f := by
  refine List.ext_getElem (by simpa using hlen) fun i hi hi' => ?_
  simpa [State.slotRead, hi] using h i (hlen ▸ hi)

/-- A matrix is the list of its rows. -/
theorem eq_map_matRow (h : a.length = n) : a = (List.range n).map (matRow a) := by
  refine List.ext_getElem (by simpa using h) fun i hi _ => ?_
  simp [matRow, hi]

theorem SameButSlots.cfgValid_eq (h : SameButSlots s t) : t.cfgValid = s.cfgValid := by rw [h]

/-! Rows of the encoding matrix times buffers (R142, R200). -/

theorem State.Configured.isMat_em (hs : s.Configured) : IsMat s.total s.cfgK s.em := hs.emBuilt ▸ isMat_vdm _ _

theorem isMat_selectedRows (hs : s.Configured) (hlen : sel.length = n) (hsel : ∀ i ∈ sel, i < s.total) :
    IsMat n s.cfgK (sel.map (matRow s.em)) := by
  refine ⟨by simpa using hlen, fun row hrow => ?_⟩
  obtain ⟨i, hi, rfl⟩ := List.mem_map.mp hrow
  exact length_matRow hs.isMat_em (hsel i hi)

/-- Rows of EM, in any order, times buffers. -/
theorem matmul_selectedRows (hs : s.Configured) (hd : d.length = s.cfgK) (hsel : ∀ i ∈ sel, i < s.total) :
    matmul s.params.gfPoly (sel.map (matRow s.em)) d len = sel.map (codeRow s d len) := by
  rw [matmul, List.map_map]
  refine List.map_congr_left fun i hi => List.map_congr_left fun j _ => ?_
  rw [dot_eq_xorOver (length_matRow hs.isMat_em (hsel i hi)) ((length_matCol d j).trans hd)]
  simp only [matCol_getD]
  rfl

theorem matmul_em (hs : s.Configured) (hd : d.length = s.cfgK) :
    matmul s.params.gfPoly s.em d len = (List.range s.total).map (codeRow s d len) := by
  have hem := eq_map_matRow hs.isMat_em.1
  rw [← matmul_selectedRows hs hd fun i hi => List.mem_range.mp hi, ← hem]

theorem recomputedParity_eq (hs : s.Configured) :
    s.recomputedParity = (List.range s.cfgM).map (parityRow s) := by
  have hrows : (s.em.drop s.cfgK).take s.cfgM = ((List.range s.cfgM).map (s.cfgK + ·)).map (matRow s.em) := by
    have hem := eq_map_matRow hs.isMat_em.1
    rw [State.total, List.range_add, List.map_append] at hem
    rw [hem, List.drop_left' (by simp), List.take_of_length_le (by simp), ← hem]
  rw [State.recomputedParity, hrows, matmul_selectedRows hs (by simp), List.map_map]
  · rfl
  · simp [State.total]

@[simp] theorem length_codeRow : (codeRow s d len i).length = len := by simp [codeRow]

theorem codeRow_getD (hj : j < len) : (codeRow s d len i).getD j 0x00 =
    xorOver s.cfgK fun c => gmul s.params.gfPoly (entry s.em i c) (entry d c j) := by
  simp [codeRow, hj]

/-- The top of EM is the identity (R178). -/
theorem coef_em_of_lt (hs : s.Configured) (hp : s.params.legal = true) (hi : i < s.cfgK) (hj : j < s.cfgK) :
    coef s.params.gfPoly s.em i j = if i = j then 1 else 0 := by
  rw [coef, hs.emBuilt, entry_vdm_top hp hs.kPos (by simp [State.total]) hs.totalLe hi hj]
  split
  · exact residue_one
  · exact residue_zero

/-- The first K coded rows are the data (R201). -/
theorem codeRow_of_lt (hs : s.Configured) (hp : s.params.legal = true) (hd : IsMat s.cfgK len d) (hc : c < s.cfgK) :
    codeRow s d len c = matRow d c := by
  refine buffer_ext length_codeRow (length_matRow hd hc) fun j hj => ?_
  have hterm (k : Nat) (hk : k ∈ Finset.range s.cfgK) :
      residue s.params.gfPoly (gmul s.params.gfPoly (entry s.em c k) (entry d k j)) =
        if c = k then residue s.params.gfPoly (entry d k j) else 0 := by
    rw [residue_gmul, ← coef, coef_em_of_lt hs hp hc (Finset.mem_range.mp hk), ite_mul, one_mul, zero_mul]
  apply residue_injective s.params.gfPoly
  rw [codeRow_getD hj, residue_xorOver, Finset.sum_congr rfl hterm, Finset.sum_ite_eq, if_pos (Finset.mem_range.mpr hc)]
  rfl

/-! Inverses, and rows of EM that have one (R148, R177). -/

theorem isMat_gaussFrom {mode : PivotMode} {count : Nat} {w w' : Mat} (hw : IsMat n (n + n) w) (hn : c + count = n)
    (h : gaussFrom poly mode n count c w = some w') : IsMat n (n + n) w' := by
  induction count generalizing c w with
  | zero => cases h; exact hw
  | succ count ih =>
    rw [gaussFrom] at h
    split at h
    · cases h
    · next w1 hstep =>
      obtain ⟨r, hr, rfl⟩ := gaussStep_eq_some (by rw [hw.1]; omega) hstep
      obtain ⟨_, _, hblock⟩ := pivotRow_eq_some hr
      have hrn := hblock n (by omega) (pivotBlock_self mode n)
      exact ih (isMat_eliminate (isMat_swapRows hw hrn (by omega)) (by omega)) (by omega) h

/-- What `ginvert` returns is an n x n matrix, whatever the parameters. -/
theorem isMat_ginvert {mode : PivotMode} (ha : IsMat n n a) (h : ginvert poly mode n a = some x) : IsMat n n x := by
  unfold ginvert at h
  split at h
  · cases h
  · next w hw =>
    cases h
    exact isMat_map_drop (isMat_gaussFrom (isMat_augment ha) (Nat.zero_add n) hw)

theorem isInverse_comm : IsInverse poly n a x ↔ IsInverse poly n x a := by
  rw [isInverse_iff, isInverse_iff, mul_eq_one_comm]

/-- A matrix undoes its inverse on any buffers. -/
theorem matmul_matmul_of_isInverse (h : IsInverse poly n a x) (ha : IsMat n n a) (hx : IsMat n n x)
    (hb : IsMat n len b) : matmul poly a (matmul poly x b len) len = b := by
  have hxb : IsMat n len (matmul poly x b len) := isMat_matmul hx.1 b len
  refine mat_ext (isMat_matmul ha.1 _ len) hb fun i hi j hj => ?_
  have hcoef {y z : Mat} {k : Nat} (hy : IsMat n n y) (hz : z.length = n) (hk : k < n) :
      coef poly (matmul poly y z len) k j = ((leadingBlock poly n y).mulVec fun l => coef poly z l j) ⟨k, hk⟩ := by
    rw [coef, entry_matmul_eq_xorOver hy hz hk hj, residue_xorOver, Finset.sum_range]
    exact Finset.sum_congr rfl fun l _ => residue_gmul _ _
  apply residue_injective poly
  have hinner : (fun l : Fin n => coef poly (matmul poly x b len) l j) =
      (leadingBlock poly n x).mulVec fun l => coef poly b l j := funext fun l => hcoef hx hb.1 l.isLt
  have houter := hcoef (k := i) ha hxb.1 hi
  rw [hinner, Matrix.mulVec_mulVec, isInverse_iff.mp h, Matrix.one_mulVec] at houter
  exact houter

/-- What `ginvert` returns is an inverse. -/
theorem isInverse_of_ginvert {p : Params} (hp : p.legal = true) {mode : PivotMode} (ha : IsMat n n a)
    (h : ginvert p.gfPoly mode n a = some x) : IsMat n n x ∧ IsInverse p.gfPoly n a x := by
  rcases ginvert_cases hp mode ha with ⟨y, hy, hmat, hinv, _⟩ | ⟨hnone, _⟩
  · obtain rfl : y = x := by rw [hy] at h; exact Option.some.inj h
    exact ⟨hmat, hinv⟩
  · rw [hnone] at h; cases h

theorem coef_selectedRow (hi : i < sel.length) :
    coef poly (sel.map (matRow a)) i j = coef poly a sel[i] j := by
  simp [coef, entry, matRow, hi]

/-- A column that K rows of EM take to zero is zero: they have an inverse (R177). -/
theorem eq_zero_of_zeros (hs : s.Configured) (hp : s.params.legal = true) {rowSet : Finset Nat}
    (hrows : ∀ i ∈ rowSet, i < s.total) (hcard : rowSet.card = s.cfgK)
    {v : Nat → AdjoinRoot (modulus s.params.gfPoly)}
    (hzero : ∀ i ∈ rowSet, ∑ k ∈ Finset.range s.cfgK, coef s.params.gfPoly s.em i k * v k = 0) (hc : c < s.cfgK) :
    v c = 0 := by
  have hlen : rowSet.toList.length = s.cfgK := rowSet.length_toList.trans hcard
  obtain ⟨x, _, hinv⟩ := Proofs.anyColsRowsOfVdmAreInvertible s.params s.total s.cfgK rowSet.toList hp hs.kPos
    (by simp [State.total]) hs.totalLe hlen rowSet.nodup_toList fun i hi => hrows i (Finset.mem_toList.mp hi)
  rw [← hs.emBuilt] at hinv
  by_contra hv
  refine not_isInverse_of_kernel hc hv (fun i hi => ?_) hinv
  simp only [coef_selectedRow (hlen ▸ hi)]
  exact hzero _ (Finset.mem_toList.mp (List.getElem_mem _))

/-- No parity coefficient is zero: where one is, the parity row and the other data rows take column c of the identity to
zero. -/
theorem entry_em_parity_ne_zero (hs : s.Configured) (hp : s.params.legal = true) (hj : j < s.cfgM) (hc : c < s.cfgK) :
    entry s.em (s.cfgK + j) c ≠ 0x00 := by
  intro h0
  have hsum (i : Nat) : ∑ k ∈ Finset.range s.cfgK, coef s.params.gfPoly s.em i k * (if k = c then 1 else 0) =
      coef s.params.gfPoly s.em i c := by
    simp [hc]
  have hone := eq_zero_of_zeros hs hp (rowSet := insert (s.cfgK + j) ((Finset.range s.cfgK).erase c))
    (v := fun k => if k = c then 1 else 0) ?_ ?_ ?_ hc
  · exact residue_one_ne_zero (by simpa using hone)
  · simp only [Finset.mem_insert, Finset.mem_erase, Finset.mem_range, State.total]
    omega
  · rw [Finset.card_insert_of_notMem (by simp), Finset.card_erase_of_mem (Finset.mem_range.mpr hc), Finset.card_range]
    exact Nat.sub_add_cancel hs.kPos
  · intro i hi
    rw [hsum]
    rcases Finset.mem_insert.mp hi with rfl | hi
    · exact coef_of_entry_eq_zero h0
    · obtain ⟨hic, hi⟩ := Finset.mem_erase.mp hi
      rw [coef_em_of_lt hs hp (Finset.mem_range.mp hi) hc, if_neg hic]

/-- A row of n entries times a column of t, filled up with zeros. -/
theorem sum_mul_extend_zero {R : Type} [Semiring R] {n t : Nat} (ht : t ≤ n) (f : Nat → R) (v : Fin t → R) :
    ∑ k ∈ Finset.range n, f k * Function.extend Fin.val v (fun _ => 0) k = ∑ k : Fin t, f k * v k := by
  rw [Finset.eventually_constant_sum (N := t) _ ht, Finset.sum_range]
  · exact Finset.sum_congr rfl fun k _ => by rw [Fin.val_injective.extend_apply]
  · intro k hk
    rw [Function.extend_apply' v _ k fun ⟨l, hl⟩ => by omega, mul_zero]

/-- The leading t x t block of selected rows has an inverse when none of its rows is one of the data rows from t on: a
column it takes to zero, filled up with zeros, is taken to zero by its t rows and by these K - t. -/
theorem exists_isInverse_leading (hs : s.Configured) (hp : s.params.legal = true) (hlen : sel.length = s.cfgK)
    (hnodup : sel.Nodup) (hsel : ∀ i ∈ sel, i < s.total) {t : Nat} (ht : t ≤ s.cfgK)
    (hblock : ∀ i ∈ sel.take t, i < t ∨ s.cfgK ≤ i) :
    ∃ y, IsInverse s.params.gfPoly t (sel.map (matRow s.em)) y := by
  have := isDomain_residues hp
  suffices hdet : (leadingBlock s.params.gfPoly t (sel.map (matRow s.em))).det ≠ 0 by
    obtain ⟨y, _, hy⟩ := exists_isInverse_of_isUnit_det (.of_pow_eq_one (pow_255_of_ne_zero hp hdet) (by decide))
    exact ⟨y, hy⟩
  intro hdet
  obtain ⟨v, hv, hkernel⟩ := Matrix.exists_mulVec_eq_zero_iff.mpr hdet
  refine hv (funext fun k => (Fin.val_injective.extend_apply v (fun _ => 0) k).symm.trans (eq_zero_of_zeros hs hp
    (rowSet := (sel.take t).toFinset ∪ Finset.Ico t s.cfgK) ?_ ?_ ?_ (k.isLt.trans_le ht)))
  · intro i hi
    rcases Finset.mem_union.mp hi with hi | hi
    · exact hsel i (List.mem_of_mem_take (List.mem_toFinset.mp hi))
    · exact (Finset.mem_Ico.mp hi).2.trans_le (Nat.le_add_right _ _)
  · rw [Finset.card_union_of_disjoint, List.toFinset_card_of_nodup (hnodup.sublist (List.take_sublist t sel)),
      Nat.card_Ico, List.length_take]
    · omega
    · refine Finset.disjoint_left.mpr fun i hi hi' => ?_
      have := hblock i (List.mem_toFinset.mp hi)
      have := Finset.mem_Ico.mp hi'
      omega
  · intro i hi
    rcases Finset.mem_union.mp hi with hi | hi
    · obtain ⟨l, hl, rfl⟩ := List.getElem_of_mem (List.mem_toFinset.mp hi)
      rw [List.length_take] at hl
      rw [List.getElem_take, sum_mul_extend_zero ht]
      refine .trans (Finset.sum_congr rfl fun k _ => ?_) (congrFun hkernel ⟨l, by omega⟩)
      rw [← coef_selectedRow (by omega)]
      rfl
    · obtain ⟨hti, hik⟩ := Finset.mem_Ico.mp hi
      rw [sum_mul_extend_zero ht]
      refine Finset.sum_eq_zero fun k _ => ?_
      rw [coef_em_of_lt hs hp hik (by omega), if_neg (by omega), zero_mul]

/-- What RECON_DATA inverts: the selected rows of EM (R250). -/
def selectedInverse (s : State) (sel : List Nat) : Option Mat :=
  ginvert s.params.gfPoly s.params.pivotMode s.cfgK (sel.map (matRow s.em))

/-- The data buffers it computes from the selected slots with the inverse `x` (R250). -/
def rebuiltData (s : State) (x : Mat) (sel : List Nat) : Mat :=
  matmul s.params.gfPoly x (sel.map s.buf) s.cfgShardLen

theorem length_rebuiltData (hx : selectedInverse s sel = some x) : (rebuiltData s x sel).length = s.cfgK :=
  (matmul_length x (sel.map s.buf) s.cfgShardLen).trans (ginvert_length hx)

/-- Row c of the inverse times the gathered buffers (R250). -/
theorem matRow_rebuiltData (hs : s.Configured) (hlen : sel.length = s.cfgK) (hsel : ∀ i ∈ sel, i < s.total)
    (hx : selectedInverse s sel = some x) (hc : c < s.cfgK) :
    matRow (rebuiltData s x sel) c = (List.range s.cfgShardLen).map fun j =>
      xorOver s.cfgK fun k => gmul s.params.gfPoly (entry x c k) (entry (sel.map s.buf) k j) := by
  have hmat := isMat_ginvert (isMat_selectedRows hs hlen hsel) hx
  rw [rebuiltData, matRow_matmul _ _ _ _ (hmat.1 ▸ hc)]
  refine List.map_congr_left fun j _ => ?_
  rw [dot_eq_xorOver (length_matRow hmat hc) (by simpa using hlen)]
  simp only [matCol_getD]
  rfl

/-- `ginvert` of K selected rows succeeds when its pivot rule decides no block that reaches a later data row. -/
theorem exists_selectedInverse (hs : s.Configured) (hp : s.params.legal = true) (hlen : sel.length = s.cfgK)
    (hnodup : sel.Nodup) (hsel : ∀ i ∈ sel, i < s.total)
    (hblock : ∀ t, PivotBlock s.params.pivotMode s.cfgK t → ∀ i ∈ sel.take t, i < t ∨ s.cfgK ≤ i) :
    ∃ x, selectedInverse s sel = some x := by
  rcases ginvert_cases hp s.params.pivotMode (isMat_selectedRows hs hlen hsel) with ⟨x, hx, _⟩ | ⟨_, t, _, ht, hno⟩
  · exact ⟨x, hx⟩
  · exact absurd (exists_isInverse_leading hs hp hlen hnodup hsel ht.le (hblock t ht)) hno

/-- In mode `partial` the only block is the whole matrix (R251). -/
theorem exists_selectedInverse_of_partial (hs : s.Configured) (hp : s.params.legal = true)
    (hmode : s.params.pivotMode = .partialPivot) (hlen : sel.length = s.cfgK) (hnodup : sel.Nodup)
    (hsel : ∀ i ∈ sel, i < s.total) :
    ∃ x, selectedInverse s sel = some x :=
  exists_selectedInverse hs hp hlen hnodup hsel fun t ht i _ => by
    rw [ht.eq_of_partial hmode]
    exact Nat.lt_or_ge i s.cfgK

/-- In mode `none` `ginvert` fails when selected row t is a data row past t: in the leading block it is zero. -/
theorem selectedInverse_eq_none (hs : s.Configured) (hp : s.params.legal = true)
    (hmode : s.params.pivotMode = .noPivot) (hlen : sel.length = s.cfgK) (hsel : ∀ i ∈ sel, i < s.total)
    {t : Nat} (ht : t < sel.length) (hlt : t < sel[t]) (hdata : sel[t] < s.cfgK) :
    selectedInverse s sel = none := by
  rcases ginvert_cases hp s.params.pivotMode (isMat_selectedRows hs hlen hsel) with ⟨_, _, _, _, hall⟩ | ⟨hnone, _⟩
  · obtain ⟨y, hy⟩ := hall (t + 1) ⟨hlen ▸ ht, by simp [hmode]⟩
    have hdiag := congrFun (congrFun (isInverse_iff.mp hy) ⟨t, t.lt_succ_self⟩) ⟨t, t.lt_succ_self⟩
    rw [leadingBlock_mul_apply, Matrix.one_apply_eq, Finset.sum_eq_zero] at hdiag
    · exact absurd hdiag.symm residue_one_ne_zero
    · intro k hk
      have hkt := Finset.mem_range.mp hk
      rw [coef_selectedRow ht, coef_em_of_lt hs hp hdata (by omega), if_neg (by omega), zero_mul]
  · exact hnone

/-! The selection of RECON_DATA (R250). -/

/-- The marked indices, ascending. -/
def markedIndices (mask : List Bool) : List Nat := (List.range mask.length).filter fun i => mask.getD i false

theorem selectShards_eq_take (k : Nat) (mask : List Bool) : selectShards k mask = (markedIndices mask).take k := rfl

theorem mem_markedIndices : i ∈ markedIndices mask ↔ mask.getD i false = true := by
  simp only [markedIndices, List.mem_filter, List.mem_range, and_iff_right_iff_imp]
  intro h
  by_contra hlt
  rw [List.getD_eq_default _ _ (Nat.le_of_not_lt hlt)] at h
  cases h

theorem lt_length_of_marked (h : mask.getD i false = true) : i < mask.length :=
  List.mem_range.mp (List.mem_filter.mp (mem_markedIndices.mpr h)).1

theorem pairwise_markedIndices (mask : List Bool) : (markedIndices mask).Pairwise (· < ·) :=
  List.pairwise_lt_range.filter _

theorem length_markedIndices (mask : List Bool) : (markedIndices mask).length = mask.count true := by
  have hmask : (List.range mask.length).map (mask.getD · false) = mask :=
    List.ext_getElem (by simp) fun i _ hi => by simp [hi]
  rw [markedIndices, ← List.countP_eq_length_filter, ← congrArg (List.count true) hmask, List.count, List.countP_map]
  exact List.countP_congr fun i _ => by simp

theorem length_selectShards (k : Nat) (mask : List Bool) : (selectShards k mask).length = min k (mask.count true) := by
  rw [selectShards_eq_take, List.length_take, length_markedIndices]

/-- The first k marked indices are a selection when there are k. -/
theorem isSelection_selectShards {k : Nat} (h : k ≤ mask.count true) : IsSelection k mask (selectShards k mask) := by
  have hsplit := List.take_append_drop k (markedIndices mask)
  have hsorted := pairwise_markedIndices mask
  rw [← hsplit, List.pairwise_append] at hsorted
  obtain ⟨hfirst, _, hbefore⟩ := hsorted
  refine ⟨by rw [length_selectShards]; omega, hfirst, fun i hi => mem_markedIndices.mp (List.mem_of_mem_take hi),
    fun i hi hnot j hj => hbefore j hj i ?_⟩
  have hmem := mem_markedIndices.mpr hi
  rw [← hsplit, List.mem_append] at hmem
  exact hmem.resolve_left hnot

/-- A selection is the first k marked indices: with the other marked ones after it, it lists them all, ascending. -/
theorem selectShards_of_isSelection {k : Nat} (h : IsSelection k mask sel) : selectShards k mask = sel := by
  obtain ⟨hlen, hsorted, hmarked, hafter⟩ := h
  have hall : markedIndices mask = sel ++ (markedIndices mask).filter (· ∉ sel) := by
    refine List.Pairwise.eq_of_mem_iff (pairwise_markedIndices mask) ?_ fun i => ?_
    · refine List.pairwise_append.mpr ⟨hsorted, (pairwise_markedIndices mask).filter _, fun j hj i hi => ?_⟩
      obtain ⟨hi, hnot⟩ := List.mem_filter.mp hi
      exact hafter i (mem_markedIndices.mp hi) (by simpa using hnot) j hj
    · simp only [List.mem_append, List.mem_filter, decide_eq_true_eq]
      refine ⟨fun hi => ?_, fun hi => hi.elim (fun hi => mem_markedIndices.mpr (hmarked i hi)) And.left⟩
      exact (em (i ∈ sel)).imp_right fun hnot => ⟨hi, hnot⟩
  rw [selectShards_eq_take, hall, List.take_left' hlen]

theorem nodup_of_isSelection {k : Nat} (h : IsSelection k mask sel) : sel.Nodup := by
  obtain ⟨_, hsorted, _⟩ := h
  exact hsorted.imp Nat.ne_of_lt

theorem marked_of_isSelection {k : Nat} (h : IsSelection k mask sel) : ∀ i ∈ sel, mask.getD i false = true := by
  obtain ⟨_, _, hmarked, _⟩ := h
  exact hmarked

theorem lt_length_of_isSelection {k : Nat} (h : IsSelection k mask sel) : ∀ i ∈ sel, i < mask.length :=
  fun i hi => lt_length_of_marked (marked_of_isSelection h i hi)

/-- Marked indices below the p-th selected one are selected before it. -/
theorem card_le_of_marked_lt {k p : Nat} (h : IsSelection k mask sel) (hp : p < sel.length) {marked : Finset Nat}
    (hmarked : ∀ m ∈ marked, mask.getD m false = true ∧ m < sel[p]) : marked.card ≤ p := by
  obtain ⟨_, hsorted, _, hafter⟩ := h
  have hsub : marked ⊆ (sel.take p).toFinset := fun m hm => by
    obtain ⟨hmark, hlt⟩ := hmarked m hm
    have hmem : m ∈ sel := by
      by_contra hnot
      exact absurd (hafter m hmark hnot _ (List.getElem_mem hp)) hlt.not_gt
    obtain ⟨q, hq, rfl⟩ := List.getElem_of_mem hmem
    refine List.mem_toFinset.mpr (List.mem_take_iff_getElem.mpr ⟨q, lt_min ?_ hq, rfl⟩)
    by_contra hpq
    rcases (Nat.not_lt.mp hpq).eq_or_lt with rfl | hpq
    · exact Nat.lt_irrefl _ hlt
    · exact Nat.lt_asymm hlt (List.pairwise_iff_getElem.mp hsorted p q hp hq hpq)
  refine (Finset.card_le_card hsub).trans ((List.toFinset_card_le _).trans ?_)
  exact List.length_take_le p sel

theorem index_le_selected {k p : Nat} (h : IsSelection k mask sel) (hp : p < sel.length) : p ≤ sel[p] := by
  obtain ⟨_, hsorted, _⟩ := h
  induction p with
  | zero => exact Nat.zero_le _
  | succ p ih =>
    have hstep := List.pairwise_iff_getElem.mp hsorted p (p + 1) (by omega) hp p.lt_succ_self
    exact (Nat.succ_le_succ (ih (by omega))).trans hstep

/-! RECON_DATA on a selection (R250). -/

section
variable (hlen : mask.length = s.total) (hsel : IsSelection s.cfgK mask sel)
include hlen

theorem reconData_of_count_lt (h : mask.count true < s.cfgK) : s.reconData mask = .error .insufficientShards := by
  have hshort : (selectShards s.cfgK mask).length < s.cfgK := by rw [length_selectShards]; omega
  simp [State.reconData, hlen, hshort]

include hsel

theorem reconData_of_absent (h : ∃ i ∈ sel, s.slotRead i = .absent) : s.reconData mask = .error .targetShardAbsent := by
  have habsent : ∃ i ∈ sel, s.isPresent i = false := by simpa only [isPresent_eq_false_iff] using h
  simp [State.reconData, hlen, selectShards_of_isSelection hsel, hsel.1, habsent]

section
variable (hpresent : ∀ i ∈ sel, s.slotRead i ≠ .absent)
include hpresent

theorem reconData_of_present : s.reconData mask =
    (selectedInverse s sel).elim (.error .singularMatrix) fun x => .ok (s.writeRows 0 (rebuiltData s x sel)) := by
  have hchecked : (sel.any fun i => !s.isPresent i) = false := by
    simpa [← slotRead_ne_absent_iff] using hpresent
  simp only [State.reconData, hlen, ne_eq, not_true_eq_false, if_false, selectShards_of_isSelection hsel, hsel.1,
    Nat.lt_irrefl, hchecked, Bool.false_eq_true, selectedInverse]
  cases ginvert s.params.gfPoly s.params.pivotMode s.cfgK (sel.map (matRow s.em)) <;> rfl

theorem reconData_of_singular (h : selectedInverse s sel = none) : s.reconData mask = .error .singularMatrix := by
  rw [reconData_of_present hlen hsel hpresent, h]
  rfl

theorem reconData_of_inverse (h : selectedInverse s sel = some x) :
    s.reconData mask = .ok (s.writeRows 0 (rebuiltData s x sel)) := by
  rw [reconData_of_present hlen hsel hpresent, h]
  rfl

theorem reconData_eq_ok (h : s.reconData mask = .ok t) :
    ∃ x, selectedInverse s sel = some x ∧ t = s.writeRows 0 (rebuiltData s x sel) := by
  cases hx : selectedInverse s sel with
  | none => rw [reconData_of_singular hlen hsel hpresent hx] at h; cases h
  | some x => rw [reconData_of_inverse hlen hsel hpresent hx] at h; cases h; exact ⟨x, rfl, rfl⟩

end
end

/-- In mode `partial` the selected rows always have an inverse that `ginvert` finds (R251). -/
theorem reconData_ne_singular_of_partial (hs : s.Configured) (hp : s.params.legal = true)
    (hmode : s.params.pivotMode = .partialPivot) (mask : List Bool) : s.reconData mask ≠ .error .singularMatrix := by
  intro h
  rcases reconData_cases mask s with ⟨_, h'⟩ | ⟨_, _, h'⟩ | ⟨_, _, _, h'⟩ | ⟨hlen, hk, _, hnone, _⟩ |
    ⟨_, _, _, x, _, h'⟩
  case inr.inr.inr.inl =>
    rw [length_selectShards, le_min_iff] at hk
    have hsel := isSelection_selectShards hk.2
    obtain ⟨x, hx⟩ := exists_selectedInverse_of_partial hs hp hmode hsel.1 (nodup_of_isSelection hsel)
      fun i hi => hlen ▸ lt_length_of_isSelection hsel i hi
    cases hx.symm.trans hnone
  all_goals rw [h'] at h; cases h

/-! What RECON_DATA's and RECON_CORRUPTION's writes leave (R240, R250). -/

theorem SameButSlots.codeRow_eq (h : SameButSlots s t) (d : Mat) (len i : Nat) :
    codeRow t d len i = codeRow s d len i := by
  rw [h]; rfl

/-- K rows written from slot 0 on are the new data slots. -/
theorem slotRead_writeRows_data (hs : s.Configured) (hrows : rows.length = s.cfgK) (hc : c < s.cfgK) :
    (s.writeRows 0 rows).slotRead c = .present (matRow rows c) := by
  have hlen := hs.length_slots
  rw [State.total] at hlen
  rw [slotRead_writeRows, if_pos (by omega)]
  rfl

theorem slotRead_writeRows_parity (hrows : rows.length = s.cfgK) (hj : s.cfgK ≤ j) :
    (s.writeRows 0 rows).slotRead j = s.slotRead j := by
  rw [slotRead_writeRows, if_neg (by omega)]

theorem dataBuffers_writeRows (hs : s.Configured) (hrows : rows.length = s.cfgK) :
    dataBuffers (s.writeRows 0 rows) = rows := by
  have hk : (s.writeRows 0 rows).cfgK = s.cfgK := by rw [writeRows_sameButSlots 0 rows s]
  rw [dataBuffers, hk, eq_map_matRow hrows]
  refine List.map_congr_left fun c hc => buf_of_slotRead ?_
  rw [← eq_map_matRow hrows]
  exact slotRead_writeRows_data hs hrows (List.mem_range.mp hc)

/-- The parity rows after K data slots are written. -/
theorem parityRow_writeRows (hs : s.Configured) (hrows : rows.length = s.cfgK) (j : Nat) :
    parityRow (s.writeRows 0 rows) j = codeRow s rows s.cfgShardLen (s.cfgK + j) := by
  have hsame := writeRows_sameButSlots 0 rows s
  rw [parityRow, dataBuffers_writeRows hs hrows, hsame.codeRow_eq, hsame]

section
variable (hs : s.Configured) (hp : s.params.legal = true) (hlen : sel.length = s.cfgK) (hsel : ∀ i ∈ sel, i < s.total)
  (hx : selectedInverse s sel = some x)
include hs hp hlen hsel hx

/-- The rebuilt data give every selected slot its own buffer again, whatever these hold (R253). -/
theorem codeRow_rebuiltData (hpresent : ∀ i ∈ sel, s.slotRead i ≠ .absent) :
    ∀ i ∈ sel, codeRow s (rebuiltData s x sel) s.cfgShardLen i = s.buf i := by
  have hrows := isMat_selectedRows hs hlen hsel
  obtain ⟨hmat, hinv⟩ := isInverse_of_ginvert hp hrows hx
  have hbufs : IsMat s.cfgK s.cfgShardLen (sel.map s.buf) := by
    refine ⟨by simpa using hlen, fun row hrow => ?_⟩
    obtain ⟨i, hi, rfl⟩ := List.mem_map.mp hrow
    exact hs.length_buf (hpresent i hi)
  have hback := matmul_matmul_of_isInverse hinv hrows hmat hbufs
  rw [matmul_selectedRows hs (isMat_matmul hmat.1 _ _).1 hsel] at hback
  exact List.map_inj_left.mp hback

/-- From buffers that are coded rows of d, the rebuilt data are d (R251). -/
theorem rebuiltData_eq (hd : IsMat s.cfgK s.cfgShardLen d)
    (hbufs : ∀ i ∈ sel, s.slotRead i = .present (codeRow s d s.cfgShardLen i)) :
    rebuiltData s x sel = d := by
  have hrows := isMat_selectedRows hs hlen hsel
  obtain ⟨hmat, hinv⟩ := isInverse_of_ginvert hp hrows hx
  rw [rebuiltData, List.map_congr_left fun i hi => buf_of_slotRead (hbufs i hi), ← matmul_selectedRows hs hd.1 hsel]
  exact matmul_matmul_of_isInverse (isInverse_comm.mp hinv) hmat hrows hd

end

/-- A selected parity slot is valid after RECON_DATA (R251, R253). -/
theorem parity_valid_after_reconData (hs : s.Configured) (hp : s.params.legal = true) (hlen : sel.length = s.cfgK)
    (hsel : ∀ i ∈ sel, i < s.total) (hx : selectedInverse s sel = some x)
    (hpresent : ∀ i ∈ sel, s.slotRead i ≠ .absent) (hj : s.cfgK + j ∈ sel)
    (ht : t = s.writeRows 0 (rebuiltData s x sel)) :
    t.slotRead (s.cfgK + j) = .present (parityRow t j) := by
  have hrows := length_rebuiltData hx
  rw [ht, slotRead_writeRows_parity hrows (Nat.le_add_right _ _), parityRow_writeRows hs hrows,
    codeRow_rebuiltData hs hp hlen hsel hx hpresent _ hj]
  exact slotRead_eq_present_buf (hpresent _ hj)

theorem matRow_recomputedParity (hs : s.Configured) (hj : j < s.cfgM) :
    matRow s.recomputedParity j = parityRow s j := by
  rw [recomputedParity_eq hs]
  simp [matRow, hj]

theorem parityValid_iff (hs : s.Configured) (hj : j < s.cfgM) :
    s.parityValid j = true ↔ s.slotRead (s.cfgK + j) = .present (parityRow s j) := by
  rw [State.parityValid, matRow_recomputedParity hs hj, beq_iff_eq]

/-- The first n parity slots after n repairs, when the valid ones held their rows before. -/
theorem slotRead_foldl_repair {valid : List Bool} {p : Mat} (hlen : s.cfgK + s.cfgM ≤ s.slots.length) (hn : n ≤ s.cfgM)
    (hvalid : ∀ j < s.cfgM, valid.getD j true = true → s.slotRead (s.cfgK + j) = .present (matRow p j))
    {u : State} (hu : u = (List.range n).foldl (fun t j => if valid.getD j true then t
      else t.slotWrite (s.cfgK + j) (.present (matRow p j))) s) :
    u.slots.length = s.slots.length ∧
      ∀ j < s.cfgM, u.slotRead (s.cfgK + j) = if j < n then .present (matRow p j) else s.slotRead (s.cfgK + j) := by
  induction n generalizing u with
  | zero => subst hu; exact ⟨rfl, fun j _ => rfl⟩
  | succ n ih =>
    obtain ⟨hvlen, hread⟩ := ih (Nat.le_of_succ_le hn) rfl
    rw [List.range_succ, List.foldl_append, List.foldl_cons, List.foldl_nil] at hu
    refine ⟨by subst hu; split <;> simpa using hvlen, fun j hj => ?_⟩
    by_cases hjn : j = n
    · subst hjn
      rw [if_pos j.lt_succ_self, hu]
      split
      · rw [hread j hj, if_neg (Nat.lt_irrefl j), hvalid j hj ‹_›]
      · exact slotRead_slotWrite_same _ _ (by omega)
    · have hle : j < n + 1 ↔ j < n := by omega
      simp only [hle]
      rw [← hread j hj, hu]
      split
      · rfl
      · exact slotRead_slotWrite_other _ _ _ (by omega)

/-- RECON_CORRUPTION leaves every parity slot with its recomputed row (R240). -/
theorem slotRead_reconCorruption (hs : s.Configured) (h : s.reconCorruption = .ok t) (hj : j < s.cfgM) :
    t.slotRead (s.cfgK + j) = .present (parityRow s j) := by
  rcases reconCorruption_cases s with ⟨_, h'⟩ | ⟨_, _, h'⟩ | ⟨_, _, h'⟩ <;> rw [h'] at h <;> cases h
  have hheld (k : Nat) (hk : k < s.cfgM) (hvalid : ((List.range s.cfgM).map s.parityValid).getD k true = true) :
      s.slotRead (s.cfgK + k) = .present (matRow s.recomputedParity k) := by
    rw [matRow_recomputedParity hs hk, ← parityValid_iff hs hk]
    simpa [hk] using hvalid
  obtain ⟨_, hread⟩ := slotRead_foldl_repair hs.length_slots.ge le_rfl hheld rfl
  rw [← matRow_recomputedParity hs hj]
  exact (hread j hj).trans (if_pos hj)

/-! RECON_CORRUPTION by what the slots hold (R240). -/

theorem reconCorruption_of_absent (h : ∃ c < s.cfgK, s.slotRead c = .absent) :
    s.reconCorruption = .error .dimensionMismatch := by
  simp only [← isPresent_eq_false_iff] at h
  obtain ⟨c, hc, habsent⟩ := h
  rcases reconCorruption_cases s with ⟨_, h'⟩ | ⟨hall, _⟩ | ⟨hall, _⟩
  · exact h'
  all_goals rw [hall c hc] at habsent; cases habsent

section
variable (hs : s.Configured) (hdata : ∀ c < s.cfgK, s.slotRead c ≠ .absent)
include hs hdata

theorem reconCorruption_of_all_invalid (h : ∀ j < s.cfgM, s.slotRead (s.cfgK + j) ≠ .present (parityRow s j)) :
    s.reconCorruption = .error .dataCorruptionUnrecoverable := by
  rcases reconCorruption_cases s with ⟨⟨c, hc, habsent⟩, _⟩ | ⟨_, _, h'⟩ | ⟨_, ⟨j, hj, hvalid⟩, _⟩
  · exact absurd ((isPresent_eq_false_iff c).mp habsent) (hdata c hc)
  · exact h'
  · exact absurd ((parityValid_iff hs hj).mp hvalid) (h j hj)

theorem reconCorruption_of_valid (h : ∃ j < s.cfgM, s.slotRead (s.cfgK + j) = .present (parityRow s j)) :
    ∃ t, s.reconCorruption = .ok t := by
  obtain ⟨j, hj, hvalid⟩ := h
  rcases reconCorruption_cases s with ⟨⟨c, hc, habsent⟩, _⟩ | ⟨_, hnone, _⟩ | ⟨_, _, h'⟩
  · exact absurd ((isPresent_eq_false_iff c).mp habsent) (hdata c hc)
  · have hj' := hnone j hj
    rw [(parityValid_iff hs hj).mpr hvalid] at hj'
    cases hj'
  · exact ⟨_, h'⟩

end

/-- Slots that hold the coded data rows give the data (R201). -/
theorem dataBuffers_of_code (hs : s.Configured) (hp : s.params.legal = true) (hd : IsMat s.cfgK s.cfgShardLen d)
    (h : ∀ c < s.cfgK, s.slotRead c = .present (codeRow s d s.cfgShardLen c)) : dataBuffers s = d := by
  rw [dataBuffers, eq_map_matRow hd.1]
  refine List.map_congr_left fun c hc => ?_
  have hc := List.mem_range.mp hc
  rw [buf_of_slotRead (h c hc), codeRow_of_lt hs hp hd hc]

theorem parityRow_of_code (hs : s.Configured) (hp : s.params.legal = true) (hd : IsMat s.cfgK s.cfgShardLen d)
    (h : ∀ c < s.cfgK, s.slotRead c = .present (codeRow s d s.cfgShardLen c)) (j : Nat) :
    parityRow s j = codeRow s d s.cfgShardLen (s.cfgK + j) := by
  rw [parityRow, dataBuffers_of_code hs hp hd h]

/-- RECON_CORRUPTION restores the coded parity from the coded data and one coded parity slot. -/
theorem reconCorruption_restores (hs : s.Configured) (hp : s.params.legal = true) (hd : IsMat s.cfgK s.cfgShardLen d)
    (hdata : ∀ c < s.cfgK, s.slotRead c = .present (codeRow s d s.cfgShardLen c))
    (hparity : ∃ j < s.cfgM, s.slotRead (s.cfgK + j) = .present (codeRow s d s.cfgShardLen (s.cfgK + j))) :
    ∃ t, s.reconCorruption = .ok t ∧
      t.slots = (List.range s.total).map fun i => .present (codeRow s d s.cfgShardLen i) := by
  have hrow := parityRow_of_code hs hp hd hdata
  simp only [← hrow] at hparity
  obtain ⟨t, ht⟩ := reconCorruption_of_valid hs (fun c hc => by simp [hdata c hc]) hparity
  obtain ⟨hlen, hkeep⟩ := reconCorruption_keeps_data ht
  refine ⟨t, ht, slots_eq_map_range (hlen.trans hs.length_slots) fun i hi => ?_⟩
  by_cases hik : i < s.cfgK
  · rw [hkeep i hik, hdata i hik]
  · obtain ⟨j, hj, rfl⟩ := exists_parity_index hi (Nat.le_of_not_lt hik)
    rw [slotRead_reconCorruption hs ht hj, hrow]

/-! RECON_DISK's case split (R252). -/

theorem presentCount_le (s : State) (base n : Nat) : presentCount s base n ≤ n :=
  List.countP_le_length.trans_eq List.length_range

theorem presentCount_eq_iff (s : State) (base n : Nat) :
    presentCount s base n = n ↔ ∀ i < n, s.slotRead (base + i) ≠ .absent := by
  have h := List.countP_eq_length (p := fun i => s.isPresent (base + i)) (l := List.range n)
  simp only [List.length_range, List.mem_range, ← slotRead_ne_absent_iff] at h
  exact h

theorem count_take_presence (s : State) : (s.presence.take s.cfgK).count true = presentCount s 0 s.cfgK := by
  rw [State.presence, State.total, List.range_add, List.map_append, List.take_left' (by simp), List.count,
    List.countP_map]
  exact List.countP_congr fun i _ => by simp

theorem count_drop_presence (s : State) : (s.presence.drop s.cfgK).count true = presentCount s s.cfgK s.cfgM := by
  rw [State.presence, State.total, List.range_add, List.map_append, List.drop_left' (by simp), List.count,
    List.map_map, List.countP_map]
  exact List.countP_congr fun i _ => by simp

theorem count_presence (s : State) :
    s.presence.count true = presentCount s 0 s.cfgK + presentCount s s.cfgK s.cfgM := by
  rw [← count_take_presence, ← count_drop_presence, ← List.count_append, List.take_append_drop]

theorem length_presence (s : State) : s.presence.length = s.total := by simp [State.presence]

theorem marked_presence_iff (hs : s.Configured) : s.presence.getD i false = true ↔ s.slotRead i ≠ .absent := by
  by_cases hi : i < s.total
  · simp [State.presence, hi, slotRead_ne_absent_iff]
  · have habsent : s.slotRead i = .absent :=
      List.getD_eq_default _ _ (hs.length_slots.trans_le (Nat.le_of_not_lt hi))
    simp [State.presence, hi, habsent]

theorem presentCount_data (h : ∀ c < s.cfgK, s.slotRead c ≠ .absent) : presentCount s 0 s.cfgK = s.cfgK :=
  (presentCount_eq_iff s 0 s.cfgK).mpr fun c hc => by rw [Nat.zero_add]; exact h c hc

/-- RECON_DISK on the counts of present data and parity slots. -/
theorem reconDisk_eq (s : State) : s.reconDisk =
    if presentCount s 0 s.cfgK + presentCount s s.cfgK s.cfgM < s.cfgK then .error .insufficientShards
    else if presentCount s 0 s.cfgK < s.cfgK then (s.reconData s.presence).bind State.reconCorruption
    else if presentCount s 0 s.cfgK = s.cfgK ∧ presentCount s s.cfgK s.cfgM < s.cfgM then s.reconCorruption
    else if presentCount s 0 s.cfgK = s.cfgK ∧ presentCount s s.cfgK s.cfgM = s.cfgM then .ok s
    else .error .invalidReconstructionState := by
  simp only [State.reconDisk, count_take_presence, count_drop_presence]
  cases s.reconData s.presence <;> rfl

theorem reconDisk_of_few (h : presentCount s 0 s.cfgK + presentCount s s.cfgK s.cfgM < s.cfgK) :
    s.reconDisk = .error .insufficientShards := by
  rw [reconDisk_eq, if_pos h]

theorem reconDisk_of_data_absent (henough : s.cfgK ≤ presentCount s 0 s.cfgK + presentCount s s.cfgK s.cfgM)
    (h : ∃ c < s.cfgK, s.slotRead c = .absent) :
    s.reconDisk = (s.reconData s.presence).bind State.reconCorruption := by
  have hlt : presentCount s 0 s.cfgK < s.cfgK := by
    refine (presentCount_le s 0 s.cfgK).lt_of_ne fun heq => ?_
    obtain ⟨c, hc, habsent⟩ := h
    exact (presentCount_eq_iff s 0 s.cfgK).mp heq c hc (by rwa [Nat.zero_add])
  rw [reconDisk_eq, if_neg (by omega), if_pos hlt]

theorem reconDisk_of_parity_absent (hdata : ∀ c < s.cfgK, s.slotRead c ≠ .absent)
    (h : ∃ j < s.cfgM, s.slotRead (s.cfgK + j) = .absent) : s.reconDisk = s.reconCorruption := by
  have hall := presentCount_data hdata
  have hlt : presentCount s s.cfgK s.cfgM < s.cfgM := by
    refine (presentCount_le s s.cfgK s.cfgM).lt_of_ne fun heq => ?_
    obtain ⟨j, hj, habsent⟩ := h
    exact (presentCount_eq_iff s s.cfgK s.cfgM).mp heq j hj habsent
  rw [reconDisk_eq, if_neg (by omega), if_neg (by omega), if_pos ⟨hall, hlt⟩]

theorem reconDisk_of_all_present (h : ∀ i < s.total, s.slotRead i ≠ .absent) : s.reconDisk = .ok s := by
  have hdata := presentCount_data fun c hc => h c (data_lt_total hc)
  have hparity := (presentCount_eq_iff s s.cfgK s.cfgM).mpr fun j hj => h _ (parity_lt_total hj)
  rw [reconDisk_eq, if_neg (by omega), if_neg (by omega), if_neg (by omega), if_pos ⟨hdata, hparity⟩]

theorem presentCount_eq_zero_iff (s : State) (base n : Nat) :
    presentCount s base n = 0 ↔ ∀ i < n, s.slotRead (base + i) = .absent := by
  simp only [presentCount, List.countP_eq_zero, List.mem_range, Bool.not_eq_true, isPresent_eq_false_iff]

theorem exists_parity_absent (h : ¬ ∀ i < s.total, s.slotRead i ≠ .absent)
    (hdata : ∀ c < s.cfgK, s.slotRead c ≠ .absent) : ∃ j < s.cfgM, s.slotRead (s.cfgK + j) = .absent := by
  push Not at h
  obtain ⟨i, hi, habsent⟩ := h
  obtain ⟨j, hj, rfl⟩ := exists_parity_index hi (Nat.le_of_not_lt fun hik => hdata i hik habsent)
  exact ⟨j, hj, habsent⟩

/-! RECON_DATA with the presence mask (R253, R254). -/

theorem isSelection_presence (h : s.cfgK ≤ presentCount s 0 s.cfgK + presentCount s s.cfgK s.cfgM) :
    IsSelection s.cfgK s.presence (selectShards s.cfgK s.presence) :=
  isSelection_selectShards (h.trans_eq (count_presence s).symm)

theorem lt_total_of_selected {k : Nat} (hsel : IsSelection k s.presence sel) : ∀ i ∈ sel, i < s.total :=
  fun i hi => length_presence s ▸ lt_length_of_isSelection hsel i hi

section
variable (hs : s.Configured) (hsel : IsSelection s.cfgK s.presence sel)
include hs hsel

theorem present_of_selected : ∀ i ∈ sel, s.slotRead i ≠ .absent :=
  fun i hi => (marked_presence_iff hs).mp (marked_of_isSelection hsel i hi)

/-- With a data slot absent, fewer than K data slots are selected, so a parity slot is. -/
theorem exists_parity_selected (h : ∃ c < s.cfgK, s.slotRead c = .absent) : ∃ j < s.cfgM, s.cfgK + j ∈ sel := by
  obtain ⟨c, hc, habsent⟩ := h
  by_contra! hnone
  have hsub : sel.toFinset ⊆ (Finset.range s.cfgK).erase c := fun i hi => by
    have hi := List.mem_toFinset.mp hi
    refine Finset.mem_erase.mpr ⟨fun hic => present_of_selected hs hsel i hi (hic ▸ habsent), Finset.mem_range.mpr ?_⟩
    by_contra hik
    obtain ⟨j, hj, rfl⟩ := exists_parity_index (lt_total_of_selected hsel i hi) (Nat.le_of_not_lt hik)
    exact hnone j hj hi
  have hcard := Finset.card_le_card hsub
  rw [List.toFinset_card_of_nodup (nodup_of_isSelection hsel), hsel.1,
    Finset.card_erase_of_mem (Finset.mem_range.mpr hc), Finset.card_range] at hcard
  omega

/-- With the present data slots 0..nd-1, a data slot selected within the first t is below t. -/
theorem selected_take_of_dataPrefix (h : DataPrefix s) (t : Nat) : ∀ i ∈ sel.take t, i < t ∨ s.cfgK ≤ i := by
  obtain ⟨nd, hnd, hdata⟩ := h
  intro i hi
  obtain ⟨p, hp, rfl⟩ := List.mem_take_iff_getElem.mp hi
  rw [lt_min_iff] at hp
  refine (Nat.lt_or_ge sel[p] s.cfgK).imp_left fun hlt => ?_
  have hin := (hdata _ hlt).mp (present_of_selected hs hsel _ (List.getElem_mem hp.2))
  have hcard := card_le_of_marked_lt hsel hp.2 (marked := Finset.range sel[p]) fun m hm => by
    have hm := Finset.mem_range.mp hm
    exact ⟨(marked_presence_iff hs).mpr ((hdata m (by omega)).mpr (by omega)), hm⟩
  rw [Finset.card_range] at hcard
  omega

end

/-- Otherwise some data slot is absent before a present one. -/
theorem exists_gap_of_not_dataPrefix (h : ¬ DataPrefix s) :
    ∃ a c, a < c ∧ c < s.cfgK ∧ s.slotRead a = .absent ∧ s.slotRead c ≠ .absent ∧ ∀ m < a, s.slotRead m ≠ .absent := by
  by_cases hall : ∀ c < s.cfgK, s.slotRead c ≠ .absent
  · exact absurd ⟨s.cfgK, le_rfl, fun c hc => iff_of_true (hall c hc) hc⟩ h
  push Not at hall
  obtain ⟨hak, habsent⟩ := Nat.find_spec hall
  have hbefore (m : Nat) (hm : m < Nat.find hall) : s.slotRead m ≠ .absent :=
    fun hmabsent => Nat.find_min hall hm ⟨hm.trans hak, hmabsent⟩
  by_contra! hnone
  refine h ⟨Nat.find hall, hak.le, fun c hc => ⟨fun hpresent => ?_, hbefore c⟩⟩
  by_contra hac
  rcases (Nat.not_lt.mp hac).eq_or_lt with heq | hlt
  · exact hpresent (heq ▸ habsent)
  · obtain ⟨m, hm, hmabsent⟩ := hnone _ c hlt hc habsent hpresent
    exact hbefore m hm hmabsent

/-- The selected row at the place of the first absent data slot is then a later data row. -/
theorem exists_selected_past_place (hs : s.Configured) (hsel : IsSelection s.cfgK s.presence sel) (h : ¬ DataPrefix s) :
    ∃ (a : Nat) (ha : a < sel.length), a < sel[a] ∧ sel[a] < s.cfgK := by
  obtain ⟨a, c, hac, hck, habsent, hpresent, hbefore⟩ := exists_gap_of_not_dataPrefix h
  have ha : a < sel.length := by rw [hsel.1]; omega
  refine ⟨a, ha, (index_le_selected hsel ha).lt_of_ne fun heq => ?_, ?_⟩
  · exact present_of_selected hs hsel _ (List.getElem_mem ha) (heq ▸ habsent)
  · by_contra hk
    have hcard := card_le_of_marked_lt hsel ha (marked := insert c (Finset.range a)) fun m hm => by
      rcases Finset.mem_insert.mp hm with rfl | hm
      · exact ⟨(marked_presence_iff hs).mpr hpresent, by omega⟩
      · have hm := Finset.mem_range.mp hm
        exact ⟨(marked_presence_iff hs).mpr (hbefore m hm), by omega⟩
    rw [Finset.card_insert_of_notMem (by simp; omega), Finset.card_range] at hcard
    omega

/-- RECON_CORRUPTION does not fail after RECON_DATA with the presence mask (R253(c)). -/
theorem reconCorruption_after_reconData (hs : s.Configured) (hp : s.params.legal = true)
    (habsent : ∃ c < s.cfgK, s.slotRead c = .absent) (h : s.reconData s.presence = .ok t) :
    ∃ u, t.reconCorruption = .ok u := by
  obtain ⟨hk, _, _⟩ := reconData_ok h
  rw [length_selectShards, le_min_iff] at hk
  have hsel := isSelection_selectShards hk.2
  have hpresent := present_of_selected hs hsel
  obtain ⟨x, hx, ht⟩ := reconData_eq_ok (length_presence s) hsel hpresent h
  obtain ⟨j, hj, hmem⟩ := exists_parity_selected hs hsel habsent
  have hvalid := parity_valid_after_reconData hs hp hsel.1 (lt_total_of_selected hsel) hx hpresent hmem ht
  have hrows := length_rebuiltData hx
  have hdata (c : Nat) (hc : c < s.cfgK) : t.slotRead c ≠ .absent := by
    rw [ht, slotRead_writeRows_data hs hrows hc]
    simp
  have hsame := reconData_sameButSlots h
  have hconf := hs.reconData h
  obtain ⟨slots, rfl⟩ := hsame.exists_slots
  exact reconCorruption_of_valid hconf hdata ⟨j, hj, hvalid⟩

section
variable (hs : s.Configured) (hp : s.params.legal = true)
  (henough : s.cfgK ≤ presentCount s 0 s.cfgK + presentCount s s.cfgK s.cfgM)
include hs hp henough

/-- In mode `none` RECON_DISK fails with SingularMatrix when a present data slot comes after an absent one (R254(d)). -/
theorem reconDisk_singular (hmode : s.params.pivotMode = .noPivot) (h : ¬ DataPrefix s) :
    s.reconDisk = .error .singularMatrix := by
  have hsel := isSelection_presence henough
  obtain ⟨a, ha, hlt, hk⟩ := exists_selected_past_place hs hsel h
  have hnone := selectedInverse_eq_none hs hp hmode hsel.1 (lt_total_of_selected hsel) ha hlt hk
  obtain ⟨c, _, _, hck, habsent, _⟩ := exists_gap_of_not_dataPrefix h
  rw [reconDisk_of_data_absent henough ⟨c, by omega, habsent⟩,
    reconData_of_singular (length_presence s) hsel (present_of_selected hs hsel) hnone]
  rfl

variable (hd : IsMat s.cfgK s.cfgShardLen d)
  (hcode : ∀ i < s.total, s.slotRead i ≠ .absent → s.slotRead i = .present (codeRow s d s.cfgShardLen i))
include hd hcode

/-- With a data slot lost, RECON_DATA writes the data back and keeps a coded parity slot for RECON_CORRUPTION. -/
theorem reconDisk_restores_of_data_absent (habsent : ∃ c < s.cfgK, s.slotRead c = .absent)
    (hmode : s.params.pivotMode = .partialPivot ∨ DataPrefix s) :
    ∃ t, s.reconDisk = .ok t ∧
      t.slots = (List.range s.total).map fun i => .present (codeRow s d s.cfgShardLen i) := by
  have hsel := isSelection_presence henough
  have hpresent := present_of_selected hs hsel
  have hlt := lt_total_of_selected hsel
  obtain ⟨x, hx⟩ := exists_selectedInverse hs hp hsel.1 (nodup_of_isSelection hsel) hlt fun t ht i hi => by
    rcases hmode with hmode | hprefix
    · rw [ht.eq_of_partial hmode]
      exact Nat.lt_or_ge i s.cfgK
    · exact selected_take_of_dataPrefix hs hsel hprefix t i hi
  have hrun := reconData_of_inverse (length_presence s) hsel hpresent hx
  rw [rebuiltData_eq hs hp hsel.1 hlt hx hd fun i hi => hcode i (hlt i hi) (hpresent i hi)] at hrun
  obtain ⟨j, hj, hmem⟩ := exists_parity_selected hs hsel habsent
  have hconf := hs.reconData hrun
  have hdata (c : Nat) (hc : c < s.cfgK) :
      (s.writeRows 0 d).slotRead c = .present (codeRow s d s.cfgShardLen c) := by
    rw [slotRead_writeRows_data hs hd.1 hc, codeRow_of_lt hs hp hd hc]
  have hparity : (s.writeRows 0 d).slotRead (s.cfgK + j) = .present (codeRow s d s.cfgShardLen (s.cfgK + j)) := by
    rw [slotRead_writeRows_parity hd.1 (Nat.le_add_right _ _)]
    exact hcode _ (hlt _ hmem) (hpresent _ hmem)
  rw [reconDisk_of_data_absent henough habsent, hrun]
  obtain ⟨slots, heq⟩ := (writeRows_sameButSlots 0 d s).exists_slots
  rw [heq] at hconf hdata hparity ⊢
  exact reconCorruption_restores hconf hp hd hdata ⟨j, hj, hparity⟩

/-- RECON_DISK restores the array when something besides the data is left and `ginvert` finds its pivots (R254). -/
theorem reconDisk_restores (hleft : ¬ (presentCount s 0 s.cfgK = s.cfgK ∧ presentCount s s.cfgK s.cfgM = 0))
    (hmode : s.params.pivotMode = .partialPivot ∨ DataPrefix s) :
    ∃ t, s.reconDisk = .ok t ∧
      t.slots = (List.range s.total).map fun i => .present (codeRow s d s.cfgShardLen i) := by
  by_cases hall : ∀ i < s.total, s.slotRead i ≠ .absent
  · exact ⟨s, reconDisk_of_all_present hall, slots_eq_map_range hs.length_slots fun i hi => hcode i hi (hall i hi)⟩
  by_cases hdata : ∀ c < s.cfgK, s.slotRead c ≠ .absent
  · have hsome : ¬ presentCount s s.cfgK s.cfgM = 0 := fun h0 => hleft ⟨presentCount_data hdata, h0⟩
    rw [presentCount_eq_zero_iff] at hsome
    push Not at hsome
    obtain ⟨j, hj, hpresent⟩ := hsome
    rw [reconDisk_of_parity_absent hdata (exists_parity_absent hall hdata)]
    exact reconCorruption_restores hs hp hd
      (fun c hc => hcode c (data_lt_total hc) (hdata c hc))
      ⟨j, hj, hcode _ (parity_lt_total hj) hpresent⟩
  · push Not at hdata
    exact reconDisk_restores_of_data_absent hs hp henough hd hcode hdata hmode

end

/-! How the reconstruction commands end. -/

theorem raise_insufficientShards (s : State) : raise .insufficientShards s = .next (gaveUp s 0x0A) := rfl

theorem raise_dataCorruptionUnrecoverable (s : State) :
    raise .dataCorruptionUnrecoverable s = .next (gaveUp s 0x09) := rfl

theorem finishRecon_ok (h : SameButSlots s t) :
    finishRecon (.ok t) s = .next { answered s [0x00] with
      slots := t.slots, engineState := s.engineState.afterRecon t.slots } := by
  obtain ⟨slots, rfl⟩ := h.exists_slots
  exact complete_answered [] [] _

/-- `s` with other responses and another ENGINE_STATE. -/
def State.withBookkeeping (rs : List Frame) (e : EngineState) (s : State) : State :=
  { s with responses := rs, engineState := e }

theorem withBookkeeping_eq (h : SameButSlots s t) (r : Frame) (e : EngineState) :
    t.withBookkeeping (s.responses ++ [r]) e = { answered s r with slots := t.slots, engineState := e } := by
  obtain ⟨slots, rfl⟩ := h.exists_slots
  rfl

/-- RECON_CORRUPTION reads neither. -/
theorem reconCorruption_withBookkeeping (rs : List Frame) (e : EngineState) (s : State) :
    (s.withBookkeeping rs e).reconCorruption = s.reconCorruption.map (State.withBookkeeping rs e) := by
  have hverify : (s.withBookkeeping rs e).verifyParity = s.verifyParity := rfl
  simp only [State.reconCorruption, hverify]
  rcases s.verifyParity with st | ⟨valid, p⟩
  · rfl
  · exact ite_eq_apply_ite _ rfl (congrArg Except.ok (List.foldl_hom _ fun _ _ => ite_eq_apply_ite _ rfl rfl))

/-- The status that a reconstruction function ends with. -/
def reconStatus : Except Status State → Status
  | .error st => st
  | .ok _ => .ok

theorem finishRecon_responses {r : Except Status State} (hr : ∀ u, r = .ok u → SameButSlots s u)
    (h : finishRecon r s = .next t) : t.responses = s.responses ++ [[statusWord (reconStatus r)]] := by
  cases r with
  | error st => cases h; rfl
  | ok u => rw [finishRecon_ok (hr u rfl)] at h; cases h; rfl

/-- A reconstruction command that answers OK has written its function's slots. -/
theorem finishRecon_answered_ok {r : Except Status State} (hr : ∀ u, r = .ok u → SameButSlots s u)
    (hne : r ≠ .error .ok) (h : finishRecon r s = .next t) (hresp : t.responses = s.responses ++ [[0x00]]) :
    ∃ u, r = .ok u ∧ SameButSlots s u ∧
      t = u.withBookkeeping (s.responses ++ [[0x00]]) (s.engineState.afterRecon u.slots) := by
  have hword := (finishRecon_responses hr h).symm.trans hresp
  cases r with
  | error st =>
    have hst : statusWord st = 0x00 := by simpa [reconStatus] using hword
    exact absurd hst (statusWord_ne_zero fun e => hne (e ▸ rfl))
  | ok u =>
    rw [finishRecon_ok (hr u rfl), ← withBookkeeping_eq (hr u rfl)] at h
    cases h
    exact ⟨u, rfl, hr u rfl, rfl⟩

theorem eq_singularMatrix_of_statusWord {st : Status} (h : statusWord st = 0x05) : st = .singularMatrix := by
  cases st with
  | singularMatrix => rfl
  | _ => simp at h

/-- One that answers SingularMatrix has it from its function. -/
theorem finishRecon_answered_singular {r : Except Status State} (hr : ∀ u, r = .ok u → SameButSlots s u)
    (h : finishRecon r s = .next t) (hresp : t.responses = s.responses ++ [[0x05]]) : r = .error .singularMatrix := by
  have hword : statusWord (reconStatus r) = 0x05 := by simpa using (finishRecon_responses hr h).symm.trans hresp
  have hstatus := eq_singularMatrix_of_statusWord hword
  cases r with
  | error st => exact congrArg Except.error hstatus
  | ok u => cases hstatus

section
variable (hv : s.cfgValid = true)
include hv

theorem exec_reconCorruption : exec .reconCorruption s = finishRecon s.reconCorruption s :=
  requireConfigured_of_valid _ hv

theorem exec_reconData (mask : List Bool) : exec (.reconData mask) s = finishRecon (s.reconData mask) s :=
  requireConfigured_of_valid _ hv

theorem exec_reconDisk : exec .reconDisk s = finishRecon s.reconDisk s :=
  requireConfigured_of_valid _ hv

end

/-- RECON_CORRUPTION as the command after another that wrote slots only. -/
theorem exec_reconCorruption_withBookkeeping (h : SameButSlots s t) (hv : s.cfgValid = true) (rs : List Frame)
    (e : EngineState) : exec .reconCorruption (t.withBookkeeping rs e) =
      finishRecon (t.withBookkeeping rs e).reconCorruption (t.withBookkeeping rs e) := by
  have hvalid : (t.withBookkeeping rs e).cfgValid = true := h.cfgValid_eq.trans hv
  exact exec_reconCorruption hvalid

theorem exec_configured {i : Instr} (hs : s.Configured) (h : exec i s = .next t) (hv : t.cfgValid = true) :
    t.Configured :=
  (exec_inv (.inl hs) h).configured hv

/-! InvalidReconstructionState is never answered (R253(a)). -/

/-- The last response of `r` is not InvalidReconstructionState. -/
def NeverInvalidReconstruction (r : Result) : Prop := ∀ t, r = .next t → t.responses.getLast? ≠ some [0x0B]

section
variable {st : Status} {r : Result}

theorem neverInvalid_raise (hst : st ≠ .invalidReconstructionState) : NeverInvalidReconstruction (raise st s) := by
  rintro t ⟨⟩
  have hword : statusWord st ≠ 0x0B := by
    cases st with
    | invalidReconstructionState => exact absurd rfl hst
    | _ => simp
  simpa [errorResponse] using hword

theorem neverInvalid_complete {words : List Word} {payload : List Byte} :
    NeverInvalidReconstruction (complete words payload s) := by
  rintro t ⟨⟩
  simp [okResponse]

theorem neverInvalid_check {c : Prop} [Decidable c] (hst : st ≠ .invalidReconstructionState)
    (h : NeverInvalidReconstruction r) : NeverInvalidReconstruction (if c then raise st s else r) := by
  split
  · exact neverInvalid_raise hst
  · exact h

theorem neverInvalid_requireConfigured (h : NeverInvalidReconstruction r) :
    NeverInvalidReconstruction (requireConfigured s r) := by
  rcases requireConfigured_cases (s := s) r with ⟨_, hr⟩ | ⟨_, hr⟩ <;> rw [hr]
  · exact neverInvalid_raise (by decide)
  · exact h

theorem neverInvalid_recon {f : Except Status State} (hf : f ≠ .error .invalidReconstructionState) :
    NeverInvalidReconstruction (requireConfigured s (finishRecon f s)) := by
  refine neverInvalid_requireConfigured ?_
  rcases finishRecon_cases f s with ⟨st, rfl, hr⟩ | ⟨u, _, hr⟩ <;> rw [hr]
  · exact neverInvalid_raise fun h => hf (h ▸ rfl)
  · exact neverInvalid_complete

end

theorem reconCorruption_ne_invalid (s : State) : s.reconCorruption ≠ .error .invalidReconstructionState := by
  rcases reconCorruption_cases s with ⟨_, h⟩ | ⟨_, _, h⟩ | ⟨_, _, h⟩ <;> simp [h]

theorem reconData_ne_invalid (mask : List Bool) (s : State) :
    s.reconData mask ≠ .error .invalidReconstructionState := by
  rcases reconData_cases mask s with ⟨_, h⟩ | ⟨_, _, h⟩ | ⟨_, _, _, h⟩ | ⟨_, _, _, _, h⟩ | ⟨_, _, _, x, _, h⟩ <;>
    simp [h]

/-- The four cases of the split leave nothing over: there are at most K data and M parity slots. -/
theorem reconDisk_ne_invalid (s : State) : s.reconDisk ≠ .error .invalidReconstructionState := by
  have hdata := presentCount_le s 0 s.cfgK
  have hparity := presentCount_le s s.cfgK s.cfgM
  rw [reconDisk_eq]
  split
  · simp
  split
  · cases h : s.reconData s.presence with
    | error st =>
      rintro ⟨⟩
      exact reconData_ne_invalid _ s h
    | ok u => exact reconCorruption_ne_invalid u
  split
  · exact reconCorruption_ne_invalid s
  · rw [if_pos (by omega)]
    simp

theorem exec_neverInvalid (i : Instr) (s : State) : NeverInvalidReconstruction (exec i s) := by
  cases i with
  | gfAdd a b => exact neverInvalid_complete
  | gfMul a b => exact neverInvalid_complete
  | gfDiv a b => exact neverInvalid_check (by decide) neverInvalid_complete
  | gfExp base power => exact neverInvalid_complete
  | gfLog a => exact neverInvalid_check (by decide) neverInvalid_complete
  | matBuild rows cols => exact neverInvalid_check (by decide) neverInvalid_complete
  | matMul m n a bufs =>
    exact neverInvalid_check (by decide) (neverInvalid_check (by decide) (neverInvalid_check (by decide)
      (neverInvalid_check (by decide) neverInvalid_complete)))
  | matInv rows cols a =>
    refine neverInvalid_check (by decide) (neverInvalid_check (by decide) ?_)
    split
    · exact neverInvalid_raise (by decide)
    · exact neverInvalid_complete
  | vdmBuild rows cols => exact neverInvalid_check (by decide) neverInvalid_complete
  | raidConfig k m cap => exact neverInvalid_check (by decide) neverInvalid_complete
  | encode bufs =>
    exact neverInvalid_requireConfigured (neverInvalid_check (by decide) (neverInvalid_check (by decide)
      (neverInvalid_check (by decide) neverInvalid_complete)))
  | dropShard index =>
    exact neverInvalid_requireConfigured (neverInvalid_check (by decide) neverInvalid_complete)
  | bitFlip index bitpos =>
    exact neverInvalid_requireConfigured (neverInvalid_check (by decide) (neverInvalid_check (by decide)
      (neverInvalid_check (by decide) neverInvalid_complete)))
  | detect => exact neverInvalid_requireConfigured neverInvalid_complete
  | verify =>
    refine neverInvalid_requireConfigured ?_
    rcases verifyParity_cases s with ⟨_, h⟩ | ⟨_, h⟩ <;> rw [h]
    · exact neverInvalid_raise (by decide)
    · exact neverInvalid_complete
  | reconCorruption => exact neverInvalid_recon (reconCorruption_ne_invalid s)
  | reconData mask => exact neverInvalid_recon (reconData_ne_invalid mask s)
  | reconDisk => exact neverInvalid_recon (reconDisk_ne_invalid s)
  | readShard index =>
    refine neverInvalid_requireConfigured (neverInvalid_check (by decide) ?_)
    split <;> exact neverInvalid_complete

/-! ENCODE (R200). -/

/-- ENCODE of K buffers of one length: what is left is the check of that length. -/
theorem exec_encode_of_lengths (hs : s.Configured) (hcount : d.length = s.cfgK) (hlen : ∀ row ∈ d, row.length = len) :
    exec (.encode d) s =
      if len = 0 ∨ s.cfgCap < len then raise .invalidDimensions s else complete [] [] (s.encodeShards d) := by
  have hfirst : firstLength d = len := firstLength_eq (hcount ▸ hs.kPos) hlen
  subst hfirst
  exact (requireConfigured_of_valid _ hs.valid).trans
    ((if_neg (not_not.mpr hcount)).trans (if_neg (not_not.mpr ((equalLengths_iff d).mpr hlen))))

theorem encodeShards_eq_code (hs : s.Configured) (hcount : d.length = s.cfgK) (hlen : ∀ row ∈ d, row.length = len) :
    s.encodeShards d = { s with
      slots := (List.range s.total).map fun i => .present (codeRow s d len i)
      cfgShardLen := len
      engineState := .encoded } := by
  have hrows : (matmul s.params.gfPoly s.em d len).length = s.slots.length := by
    rw [matmul_length, hs.isMat_em.1, hs.length_slots]
  rw [encodeShards_eq, firstLength_eq (hcount ▸ hs.kPos) hlen, slots_writeRows_all hrows, matmul_em hs hcount,
    List.map_map]
  rfl

theorem exec_encode_ok (hs : s.Configured) (hd : IsMat s.cfgK len d) (hpos : 1 ≤ len) (hcap : len ≤ s.cfgCap) :
    exec (.encode d) s = .next { answered s [0x00] with
      cfgShardLen := len
      slots := (List.range s.total).map fun i => .present (codeRow s d len i)
      engineState := .encoded } := by
  rw [exec_encode_of_lengths hs hd.1 hd.2, if_neg (by omega), encodeShards_eq_code hs hd.1 hd.2]
  exact complete_answered [] [] _

/-! DROP_SHARD (R205). -/

theorem exec_dropShard_ok {index : Word} (hv : s.cfgValid = true) (hi : index.toNat < s.total) :
    exec (.dropShard index) s = .next { answered s [0x00] with
      slots := s.slots.set index.toNat .absent
      engineState := s.engineState.afterDrop } :=
  (requireConfigured_of_valid _ hv).trans ((if_neg (Nat.not_le.mpr hi)).trans (complete_answered [] [] _))

/-! BIT_FLIP (R210). -/

/-- The byte that a flip of bit p adds. -/
theorem getLsbD_flipByte {k : Nat} (b : Nat) (hk : k < 8) : ((0x01 : Byte) <<< k).getLsbD b = decide (b = k) := by
  have hone : (0x01 : Byte).getLsbD (b - k) = decide (b - k = 0) := by simp
  rw [BitVec.getLsbD_shiftLeft, hone, Bool.eq_iff_iff]
  simp only [Bool.and_eq_true, decide_eq_true_eq, Bool.not_eq_true', decide_eq_false_iff_not]
  omega

theorem flipByte_ne_zero (p : Nat) : (0x01 : Byte) <<< (p % 8) ≠ 0x00 := by
  intro h
  have hbit := getLsbD_flipByte (p % 8) (Nat.mod_lt p (by decide))
  rw [h] at hbit
  simp at hbit

theorem flipBit_getD {buf : Buffer} {p : Nat} (hp : p / 8 < buf.length) (n : Nat) :
    (flipBit p buf).getD n 0x00 = buf.getD n 0x00 ^^^ if n = p / 8 then (0x01 : Byte) <<< (p % 8) else 0x00 := by
  by_cases hn : n = p / 8
  · subst hn
    simp [flipBit, hp]
  · simp [flipBit, List.getD_eq_getElem?_getD, hn, Ne.symm hn]

/-- A flip inverts its bit and no other (R55). -/
theorem flipBit_getLsbD {buf : Buffer} {p b : Nat} (hp : p / 8 < buf.length) (hb : b < 8) (n : Nat) :
    ((flipBit p buf).getD n 0x00).getLsbD b = ((buf.getD n 0x00).getLsbD b ^^ decide (8 * n + b = p)) := by
  rw [flipBit_getD hp, BitVec.getLsbD_xor]
  congr 1
  split
  · rw [getLsbD_flipByte b (Nat.mod_lt _ (by decide))]
    exact decide_eq_decide.mpr (by omega)
  · rw [eq_comm, decide_eq_false (by omega)]
    simp

theorem flipBit_flipBit {buf : Buffer} {p : Nat} (hp : p / 8 < buf.length) : flipBit p (flipBit p buf) = buf := by
  refine buffer_ext ((length_flipBit _ _).trans (length_flipBit _ _)) rfl fun n _ => ?_
  rw [flipBit_getD (by rwa [length_flipBit]), flipBit_getD hp, BitVec.xor_assoc, BitVec.xor_self, BitVec.xor_zero]

theorem flipBit_ne {buf : Buffer} {p : Nat} (hp : p / 8 < buf.length) : flipBit p buf ≠ buf := by
  intro h
  have hbyte := flipBit_getD hp (p / 8)
  rw [h, if_pos rfl] at hbyte
  exact flipByte_ne_zero p (xor_left_eq_self_iff.mp hbyte.symm)

theorem exec_bitFlip_ok {index bitpos : Word} {buf : Buffer} (hv : s.cfgValid = true) (hi : index.toNat < s.total)
    (hbuf : s.slotRead index.toNat = .present buf) (hbit : bitpos.toNat < 8 * s.cfgShardLen) :
    exec (.bitFlip index bitpos) s = .next { answered s [0x00] with
      slots := s.slots.set index.toNat (.present (flipBit bitpos.toNat buf))
      engineState := s.engineState.afterFlip } := by
  have hpresent : s.isPresent index.toNat = true := (isPresent_iff _).mpr ⟨buf, hbuf⟩
  refine (requireConfigured_of_valid _ hv).trans ((if_neg (by omega)).trans ((if_neg (by simp [hpresent])).trans
    ((if_neg (by omega)).trans ?_)))
  rw [buf_of_slotRead hbuf]
  exact complete_answered [] [] _

theorem bitFlip_next {index bitpos : Word} {buf : Buffer} (hs : s.Configured) (hi : index.toNat < s.total)
    (hbuf : s.slotRead index.toNat = .present buf) (hbit : bitpos.toNat < 8 * s.cfgShardLen)
    (h : exec (.bitFlip index bitpos) s = .next t) :
    t.Configured ∧ t = (s.slotWrite index.toNat (.present (flipBit bitpos.toNat buf))).withBookkeeping
      (s.responses ++ [[0x00]]) s.engineState.afterFlip := by
  have hexec := exec_bitFlip_ok hs.valid hi hbuf hbit
  obtain rfl := Host.Outcome.next.inj (hexec.symm.trans h)
  exact ⟨exec_configured hs hexec hs.valid, rfl⟩

/-- One byte of one data buffer changed by `delta` changes that byte of a coded row by its coefficient times `delta`,
and no other byte (R255(b)). -/
theorem codeRow_getD_of_entry_xor {d' : Mat} {m : Nat} {delta : Byte} (hc : c < s.cfgK) (hm : m < len)
    (hentry : ∀ l < s.cfgK, ∀ n, entry d' l n = entry d l n ^^^ if l = c ∧ n = m then delta else 0x00) (i n : Nat) :
    (codeRow s d' len i).getD n 0x00 = (codeRow s d len i).getD n 0x00 ^^^
      if n = m then gmul s.params.gfPoly (entry s.em i c) delta else 0x00 := by
  by_cases hn : n < len
  · rw [codeRow_getD hn, codeRow_getD hn]
    apply residue_injective s.params.gfPoly
    rw [residue_xor, residue_xorOver, residue_xorOver]
    have hterm (l : Nat) (hl : l ∈ Finset.range s.cfgK) :
        residue s.params.gfPoly (gmul s.params.gfPoly (entry s.em i l) (entry d' l n)) =
          residue s.params.gfPoly (gmul s.params.gfPoly (entry s.em i l) (entry d l n)) +
            if l = c then residue s.params.gfPoly (if n = m then gmul s.params.gfPoly (entry s.em i c) delta else 0x00)
            else 0 := by
      rw [hentry l (Finset.mem_range.mp hl), gmul_xor, residue_xor]
      by_cases hlc : l = c <;> by_cases hnm : n = m <;> simp [hlc, hnm]
    rw [Finset.sum_congr rfl hterm, Finset.sum_add_distrib, Finset.sum_ite_eq', if_pos (Finset.mem_range.mpr hc)]
  · rw [List.getD_eq_default _ _ (by simpa using hn), List.getD_eq_default _ _ (by simpa using hn), if_neg (by omega)]
    rfl

/-! VERIFY (R230). -/

theorem exec_verify_of_present (hs : s.Configured) (hdata : ∀ c < s.cfgK, s.slotRead c ≠ .absent) :
    exec .verify s = .next (answered s (0x00 :: BitVec.ofNat 32 s.cfgM :: BitVec.ofNat 32 s.cfgShardLen ::
      pack (((List.range s.cfgM).map fun j =>
          if s.slotRead (s.cfgK + j) = .present (parityRow s j) then 0x01 else 0x00) ++
        ((List.range s.cfgM).map (parityRow s)).flatten))) := by
  have hvalid : ((List.range s.cfgM).map s.parityValid).map boolByte = (List.range s.cfgM).map fun j =>
      if s.slotRead (s.cfgK + j) = .present (parityRow s j) then 0x01 else 0x00 := by
    rw [List.map_map]
    refine List.map_congr_left fun j hj => ?_
    simp only [Function.comp_apply, boolByte, parityValid_iff hs (List.mem_range.mp hj)]
  refine (requireConfigured_of_valid _ hs.valid).trans ?_
  rcases verifyParity_cases s with ⟨⟨c, hc, habsent⟩, _⟩ | ⟨_, h⟩
  · exact absurd ((isPresent_eq_false_iff c).mp habsent) (hdata c hc)
  · rw [h, ← hvalid, ← recomputedParity_eq hs]
    exact complete_answered _ _ s

/-! The engine on coded data with one parity slot that is not the coded one (R255(a)). -/

section
variable (hs : s.Configured) (hp : s.params.legal = true) (hd : IsMat s.cfgK s.cfgShardLen d)
  (hdata : ∀ c < s.cfgK, s.slotRead c = .present (codeRow s d s.cfgShardLen c))
  (hbad : s.slotRead (s.cfgK + j) ≠ .present (codeRow s d s.cfgShardLen (s.cfgK + j)))
include hs hp hd hdata hbad

theorem exec_verify_of_one_invalid
    (hother : ∀ k < s.cfgM, k ≠ j → s.slotRead (s.cfgK + k) = .present (codeRow s d s.cfgShardLen (s.cfgK + k))) :
    exec .verify s = .next (answered s (0x00 :: BitVec.ofNat 32 s.cfgM :: BitVec.ofNat 32 s.cfgShardLen ::
      pack (((List.range s.cfgM).map fun k => if k = j then 0x00 else 0x01) ++
        ((List.range s.cfgM).map fun k => codeRow s d s.cfgShardLen (s.cfgK + k)).flatten))) := by
  have hrow := parityRow_of_code hs hp hd hdata
  have hbytes : ((List.range s.cfgM).map fun k =>
      if s.slotRead (s.cfgK + k) = .present (parityRow s k) then (0x01 : Byte) else 0x00) =
        (List.range s.cfgM).map fun k => if k = j then 0x00 else 0x01 := by
    refine List.map_congr_left fun k hk => ?_
    rw [hrow]
    split
    · next hvalid =>
      rw [if_neg]
      rintro rfl
      exact hbad hvalid
    · next hinvalid =>
      rw [if_pos]
      by_contra hkj
      exact hinvalid (hother k (List.mem_range.mp hk) hkj)
  rw [exec_verify_of_present hs fun c hc => by simp [hdata c hc], hbytes, List.map_congr_left fun k _ => hrow k]

theorem exec_reconCorruption_of_single_parity (hm : s.cfgM = 1) (hj : j < s.cfgM) :
    exec .reconCorruption s = .next (gaveUp s 0x09) := by
  have hinvalid (k : Nat) (hk : k < s.cfgM) : s.slotRead (s.cfgK + k) ≠ .present (parityRow s k) := by
    obtain rfl : k = j := by omega
    rwa [parityRow_of_code hs hp hd hdata]
  rw [exec_reconCorruption hs.valid, reconCorruption_of_all_invalid hs (fun c hc => by simp [hdata c hc]) hinvalid]
  exact raise_dataCorruptionUnrecoverable s

end

/-! Coded slots with one bit flipped (R255). -/

section
variable {p : Nat} {rs : List Frame} {e : EngineState}
  (ht : t = (s.slotWrite i (.present (flipBit p (codeRow s d s.cfgShardLen i)))).withBookkeeping rs e)
include ht

theorem slotRead_flipped (hs : s.Configured) (hi : i < s.total) :
    t.slotRead i = .present (flipBit p (codeRow s d s.cfgShardLen i)) := by
  rw [ht]
  exact slotRead_slotWrite_same _ _ (hs.length_slots.symm ▸ hi)

variable (hcode : ∀ k < s.total, s.slotRead k = .present (codeRow s d s.cfgShardLen k))
include hcode

theorem slotRead_unflipped (hj : j < s.total) (hne : j ≠ i) :
    t.slotRead j = .present (codeRow s d s.cfgShardLen j) := by
  rw [← hcode j hj, ht]
  exact slotRead_slotWrite_other _ _ _ hne.symm

/-- A flipped data bit changes its byte of every recomputed row by that row's coefficient times the flipped bit, and no
other byte. -/
theorem parityRow_of_data_flip (hs : s.Configured) (hp : s.params.legal = true) (hd : IsMat s.cfgK s.cfgShardLen d)
    (hi : i < s.cfgK) (hbit : p < 8 * s.cfgShardLen) (j n : Nat) :
    (parityRow t j).getD n 0x00 = (codeRow s d s.cfgShardLen (s.cfgK + j)).getD n 0x00 ^^^
      if n = p / 8 then gmul s.params.gfPoly (entry s.em (s.cfgK + j) i) (0x01 <<< (p % 8)) else 0x00 := by
  have hrow : parityRow t j = codeRow s (dataBuffers t) s.cfgShardLen (s.cfgK + j) := by rw [ht]; rfl
  have hk : t.cfgK = s.cfgK := by rw [ht]; rfl
  rw [hrow]
  refine codeRow_getD_of_entry_xor hi (by omega) (fun l hl n => ?_) _ n
  have hentry : entry (dataBuffers t) l n = (t.buf l).getD n 0x00 := by simp [entry, dataBuffers, hk, hl]
  rw [hentry]
  by_cases hli : l = i
  · subst hli
    rw [buf_of_slotRead (slotRead_flipped ht hs (data_lt_total hl)), flipBit_getD (by rw [length_codeRow]; omega),
      codeRow_of_lt hs hp hd hl]
    simp only [true_and]
    rfl
  · rw [buf_of_slotRead (slotRead_unflipped ht hcode (data_lt_total hl) hli), codeRow_of_lt hs hp hd hl,
      if_neg fun h => hli h.1]
    exact BitVec.xor_zero.symm

end

end Sys2Proof.Machine

namespace Sys2Proof.Proofs

open Sys2Proof.Machine Sys2Proof.Claims

/-- Settles O46: the top of EM is the identity, and the parity slots hold coded rows. -/
theorem encodeIsSystematic : Obligations.EncodeIsSystematic := by
  intro s bufs len hs hp hbufs hpos hcap
  refine ⟨_, exec_encode_ok hs hbufs hpos hcap, fun c hc => ?_, fun j hj => ?_⟩
  · refine (map_range_getD _ (data_lt_total hc)).trans ?_
    rw [codeRow_of_lt hs hp hbufs hc]
    rfl
  · exact map_range_getD _ (parity_lt_total hj)

/-- Settles O54: the selected rows of EM have an inverse, and the gathered buffers are these rows times D. -/
theorem reconDataRecoversTheEncodedData : Obligations.ReconDataRecoversTheEncodedData := by
  intro s t mask hs hp h
  rw [exec_reconData hs.valid] at h
  refine ⟨fun hmode hresp => ?_, fun d sel hd hlen hsel hbufs => ⟨fun hmode => ?_, fun hresp => ?_⟩⟩
  · exact reconData_ne_singular_of_partial hs hp hmode mask
      (finishRecon_answered_singular (fun _ => reconData_sameButSlots) h hresp)
  all_goals
    have hlt := hlen ▸ lt_length_of_isSelection hsel
    have hpresent (i : Nat) (hi : i ∈ sel) : s.slotRead i ≠ .absent := by simp [hbufs i hi]
  · obtain ⟨x, hx⟩ := exists_selectedInverse_of_partial hs hp hmode hsel.1 (nodup_of_isSelection hsel) hlt
    rw [reconData_of_inverse hlen hsel hpresent hx, finishRecon_ok (writeRows_sameButSlots _ _ _)] at h
    cases h
    rfl
  · obtain ⟨u, hu, _, rfl⟩ :=
      finishRecon_answered_ok (fun _ => reconData_sameButSlots) (reconData_ne_error_ok mask s) h hresp
    obtain ⟨x, hx, hwrite⟩ := reconData_eq_ok hlen hsel hpresent hu
    refine ⟨fun c hc => ?_, fun j _ hj => parity_valid_after_reconData (t := u) hs hp hsel.1 hlt hx hpresent hj hwrite⟩
    rw [rebuiltData_eq hs hp hsel.1 hlt hx hd hbufs] at hwrite
    subst hwrite
    exact slotRead_writeRows_data hs hd.1 hc

/-- Settles O56: a selected parity slot is valid after RECON_DATA. -/
theorem reconDiskSecondStepNeverFails : Obligations.ReconDiskSecondStepNeverFails := by
  intro s u hs hp habsent h hresp
  rw [exec_reconData hs.valid] at h
  obtain ⟨w, hw, hsame, rfl⟩ :=
    finishRecon_answered_ok (fun _ => reconData_sameButSlots) (reconData_ne_error_ok _ s) h hresp
  obtain ⟨v, hv⟩ := reconCorruption_after_reconData hs hp habsent hw
  have hrun := reconCorruption_withBookkeeping (s.responses ++ [[0x00]]) (s.engineState.afterRecon w.slots) w
  rw [hv] at hrun
  rw [exec_reconCorruption_withBookkeeping hsame hs.valid, hrun]
  exact ⟨_, finishRecon_ok (reconCorruption_sameButSlots hrun), rfl⟩

/-- Settles O58, by the case split of RECON_DISK; what decides in mode `none` is whether the leading blocks of the
selected rows reach a data row past their own. -/
theorem reconDiskRestoresUpToMErasures : Obligations.ReconDiskRestoresUpToMErasures := by
  intro s d hs hp hd hslots
  rw [exec_reconDisk hs.valid]
  refine ⟨fun hfew => ?_, fun hall hnone => ?_, fun henough hleft => ⟨fun hmode => ?_, fun hmode hprefix => ?_⟩⟩
  · rw [reconDisk_of_few hfew]
    exact raise_insufficientShards s
  · have hdata := presentCount_eq_iff s 0 s.cfgK |>.mp hall
    simp only [Nat.zero_add] at hdata
    have habsent := (presentCount_eq_zero_iff s s.cfgK s.cfgM).mp hnone
    rw [reconDisk_of_parity_absent hdata ⟨0, hs.mPos, habsent 0 hs.mPos⟩,
      reconCorruption_of_all_invalid hs hdata fun j hj => by simp [habsent j hj]]
    exact raise_dataCorruptionUnrecoverable s
  · obtain ⟨t, ht, hrestored⟩ :=
      reconDisk_restores hs hp henough hd (fun i hi => (hslots i hi).resolve_left) hleft hmode
    rw [ht, finishRecon_ok (reconDisk_sameButSlots ht), hrestored, EngineState.afterRecon_eq]
    exact ⟨_, rfl, rfl⟩
  · rw [reconDisk_singular hs hp henough hmode hprefix]
    exact raise_eq_of_plain s (by decide) (by decide)

/-- Settles O59: the data are as they were, so the recomputed rows are the coded ones, and the flipped slot alone
differs. -/
theorem oneParityBitFlipIsDetectedAndRepaired : Obligations.OneParityBitFlipIsDetectedAndRepaired := by
  rintro s t d j index bitpos hs hp ⟨hd, hcode⟩ hj hindex hbit h
  have hi : index.toNat < s.total := hindex ▸ parity_lt_total hj
  obtain ⟨hconf, ht⟩ := bitFlip_next hs hi (hcode _ hi) hbit h
  rw [hindex] at ht hi
  have hdata (c : Nat) (hc : c < s.cfgK) := slotRead_unflipped ht hcode (data_lt_total hc) (by omega)
  have hother (k : Nat) (hk : k < s.cfgM) (hne : k ≠ j) :=
    slotRead_unflipped (j := s.cfgK + k) ht hcode (parity_lt_total hk) (by omega)
  have hbad : t.slotRead (s.cfgK + j) ≠ .present (codeRow s d s.cfgShardLen (s.cfgK + j)) := by
    rw [slotRead_flipped ht hs hi, Ne, Slot.present.injEq]
    exact flipBit_ne (by rw [length_codeRow]; omega)
  obtain ⟨slots, rs, e, rfl⟩ : ∃ slots rs e, t = { s with slots := slots, responses := rs, engineState := e } :=
    ⟨_, _, _, ht⟩
  refine ⟨exec_verify_of_one_invalid hconf hp hd hdata hbad hother, fun hm => ?_, fun hm =>
    exec_reconCorruption_of_single_parity hconf hp hd hdata hbad hm hj⟩
  obtain ⟨k, hk, hne⟩ : ∃ k < s.cfgM, k ≠ j := ⟨if j = 0 then 1 else 0, by split <;> omega, by split <;> omega⟩
  obtain ⟨u, hu, hrestored⟩ := reconCorruption_restores hconf hp hd hdata ⟨k, hk, hother k hk hne⟩
  rw [exec_reconCorruption hconf.valid, hu, finishRecon_ok (reconCorruption_sameButSlots hu)]
  exact ⟨_, rfl, rfl, hrestored.trans (slots_eq_map_range hs.length_slots hcode).symm⟩

/-- Settles O60: the recomputed rows differ from the coded ones in the flipped byte, by a product of nonzero bytes. -/
theorem oneDataBitFlipIsUnrecoverable : Obligations.OneDataBitFlipIsUnrecoverable := by
  rintro s t d c index bitpos hs hp ⟨hd, hcode⟩ hc hindex hbit h
  obtain ⟨hconf, ht⟩ := bitFlip_next hs (hindex ▸ data_lt_total hc) (hcode _ (hindex ▸ data_lt_total hc)) hbit h
  rw [hindex] at ht
  have hcoef (j : Nat) (hj : j < s.cfgM) :
      gmul s.params.gfPoly (entry s.em (s.cfgK + j) c) (0x01 <<< (bitpos.toNat % 8)) ≠ 0x00 := by
    rw [Ne, gmul_eq_zero_iff hp, not_or]
    exact ⟨entry_em_parity_ne_zero hs hp hj hc, flipByte_ne_zero _⟩
  have hrow := parityRow_of_data_flip ht hcode hs hp hd hc hbit
  have hpresent (l : Nat) (hl : l < s.cfgK) : t.slotRead l ≠ .absent := by
    by_cases hlc : l = c
    · simp [hlc, slotRead_flipped ht hs (data_lt_total hc)]
    · simp [slotRead_unflipped ht hcode (data_lt_total hl) hlc]
  have hinvalid (j : Nat) (hj : j < s.cfgM) : t.slotRead (s.cfgK + j) ≠ .present (parityRow t j) := by
    rw [slotRead_unflipped ht hcode (parity_lt_total hj) (by omega), Ne, Slot.present.injEq]
    intro heq
    have hbyte := hrow j (bitpos.toNat / 8)
    rw [← heq, if_pos rfl] at hbyte
    exact hcoef j hj (xor_left_eq_self_iff.mp hbyte.symm)
  obtain ⟨slots, rs, e, rfl⟩ : ∃ slots rs e, t = { s with slots := slots, responses := rs, engineState := e } :=
    ⟨_, _, _, ht⟩
  refine ⟨fun j hj => ⟨hcoef j hj, hrow j⟩, ?_, ?_⟩
  · refine (exec_verify_of_present hconf hpresent).trans ?_
    rw [List.map_congr_left fun j hj => if_neg (hinvalid j (List.mem_range.mp hj)), List.map_const', List.length_range]
  · rw [exec_reconCorruption hconf.valid, reconCorruption_of_all_invalid hconf hpresent hinvalid]
    exact raise_dataCorruptionUnrecoverable _

/-- Settles O45: the checks pass or fail one after the other, and every slot is a coded row. -/
theorem encodeChecksInOrderAndWritesEverySlot : Obligations.EncodeChecksInOrderAndWritesEverySlot := by
  intro s bufs hs
  refine ⟨congrArg (· :: _) headerWord_encode, fun hcount => ?_, fun hcount => ⟨fun hlens => ?_, fun len hlen =>
    ⟨fun hbad => ?_, fun hpos hcap => exec_encode_ok hs ⟨hcount, hlen⟩ hpos hcap⟩⟩⟩
  · exact (requireConfigured_of_valid _ hs.valid).trans
      ((if_pos hcount).trans (raise_eq_of_plain s (by decide) (by decide)))
  · exact (requireConfigured_of_valid _ hs.valid).trans ((if_neg (not_not.mpr hcount)).trans
      ((if_pos (not_equalLengths hlens)).trans (raise_eq_of_plain s (by decide) (by decide))))
  · rw [exec_encode_of_lengths hs hcount hlen, if_pos hbad]
    exact raise_eq_of_plain s (by decide) (by decide)

/-- Settles O47: one slot is written, and ENGINE_STATE follows R34's row. -/
theorem dropShardMakesOneSlotAbsent : Obligations.DropShardMakesOneSlotAbsent := by
  intro s index hs
  refine ⟨(encode_of_payload_nil rfl).trans (congrArg (· :: _) headerWord_dropShard), fun hi => ?_, fun hi => ?_⟩
  · exact (requireConfigured_of_valid _ hs.valid).trans
      ((if_pos hi).trans (raise_eq_of_plain s (by decide) (by decide)))
  · obtain ⟨hlen, hother⟩ := slotsKept_slotWrite index.toNat .absent s
    rw [exec_dropShard_ok hs.valid hi, EngineState.afterDrop_eq]
    exact ⟨_, rfl, rfl, hlen, slotRead_slotWrite_same _ _ (hs.length_slots ▸ hi), hother⟩

/-- Settles O48: the byte that a flip adds has one bit, and it is its own inverse. -/
theorem bitFlipInvertsExactlyOneBit : Obligations.BitFlipInvertsExactlyOneBit := by
  intro s index bitpos hs
  refine ⟨(encode_of_payload_nil rfl).trans (congrArg (· :: _) headerWord_bitFlip), fun hi => ?_, fun hi habsent => ?_,
    fun buf hi hbuf => ⟨fun hbit => ?_, fun hbit => ?_⟩⟩
  · exact (requireConfigured_of_valid _ hs.valid).trans
      ((if_pos hi).trans (raise_eq_of_plain s (by decide) (by decide)))
  · have hpresent := (isPresent_eq_false_iff _).mpr habsent
    exact (requireConfigured_of_valid _ hs.valid).trans ((if_neg (Nat.not_le.mpr hi)).trans
      ((if_pos (by simp [hpresent])).trans (raise_eq_of_plain s (by decide) (by decide))))
  · have hpresent := (isPresent_iff _).mpr ⟨buf, hbuf⟩
    exact (requireConfigured_of_valid _ hs.valid).trans ((if_neg (Nat.not_le.mpr hi)).trans
      ((if_neg (by simp [hpresent])).trans ((if_pos hbit).trans (raise_eq_of_plain s (by decide) (by decide)))))
  · have hlen : buf.length = s.cfgShardLen := by
      rw [← buf_of_slotRead hbuf]
      exact hs.length_buf (by simp [hbuf])
    have hbyte : bitpos.toNat / 8 < buf.length := by omega
    obtain ⟨hslots, hother⟩ := slotsKept_slotWrite index.toNat (.present (flipBit bitpos.toNat buf)) s
    have hread := slotRead_slotWrite_same index.toNat (.present (flipBit bitpos.toNat buf)) (hs.length_slots ▸ hi)
    refine ⟨_, flipBit bitpos.toNat buf, exec_bitFlip_ok hs.valid hi hbuf hbit, rfl, hread, length_flipBit _ _,
      fun n b hb => flipBit_getLsbD hbyte hb n, hslots, hother, _, exec_bitFlip_ok hs.valid hi hread hbit, ?_⟩
    have hbuf' : s.slots[index.toNat]'(hs.length_slots ▸ hi) = .present buf := by
      simpa [State.slotRead, hs.length_slots, hi] using hbuf
    rw [flipBit_flipBit hbyte]
    simp only [List.set_set]
    rw [← hbuf', List.set_getElem_self]

/-- Settles O51: each parity slot is compared with its recomputed row. -/
theorem verifyRecomputesTheParity : Obligations.VerifyRecomputesTheParity := by
  refine ⟨(encode_of_payload_nil rfl).trans (congrArg (· :: _) headerWord_verify), fun s hs => ⟨fun habsent => ?_,
    exec_verify_of_present hs⟩⟩
  simp only [← isPresent_eq_false_iff] at habsent
  obtain ⟨c, hc, habsent⟩ := habsent
  refine (requireConfigured_of_valid _ hs.valid).trans ?_
  rcases verifyParity_cases s with ⟨_, h⟩ | ⟨hall, _⟩
  · rw [h]
    exact raise_eq_of_plain s (by decide) (by decide)
  · rw [hall c hc] at habsent
    cases habsent

/-- Settles O52: `recon_corruption` fails as VERIFY does or with every parity slot invalid, and otherwise writes the
recomputed rows. -/
theorem reconCorruptionRepairsInvalidParity : Obligations.ReconCorruptionRepairsInvalidParity := by
  refine ⟨(encode_of_payload_nil rfl).trans (congrArg (· :: _) headerWord_reconCorruption), fun s hs => ?_⟩
  rw [exec_reconCorruption hs.valid]
  refine ⟨fun habsent => ?_, fun hdata => ⟨fun hinvalid => ?_, fun hvalid => ?_⟩⟩
  · rw [reconCorruption_of_absent habsent]
    exact raise_eq_of_plain s (by decide) (by decide)
  · rw [reconCorruption_of_all_invalid hs hdata hinvalid]
    exact raise_dataCorruptionUnrecoverable s
  · obtain ⟨t, ht⟩ := reconCorruption_of_valid hs hdata hvalid
    obtain ⟨hlen, hkeep⟩ := reconCorruption_keeps_data ht
    rw [ht, finishRecon_ok (reconCorruption_sameButSlots ht), EngineState.afterRecon_eq]
    exact ⟨_, rfl, rfl, hlen, hkeep, fun j hj => slotRead_reconCorruption (t := t) hs ht hj⟩

/-- Settles O53: the checks pass or fail one after the other, and the first K slots are written. -/
theorem reconDataChecksInOrderAndWritesTheDataSlots : Obligations.ReconDataChecksInOrderAndWritesTheDataSlots := by
  intro s mask hs
  refine ⟨congrArg (· :: _) headerWord_reconData, ?_⟩
  rw [exec_reconData hs.valid]
  refine ⟨fun hlen => ?_, fun hlen => ⟨fun hcount => ?_, fun sel hsel => ⟨fun habsent => ?_, fun hpresent =>
    ⟨fun hnone => ?_, fun x hx => ?_⟩⟩⟩⟩
  · rw [State.reconData, if_pos hlen]
    exact raise_eq_of_plain s (by decide) (by decide)
  · rw [reconData_of_count_lt hlen hcount]
    exact raise_insufficientShards s
  · rw [reconData_of_absent hlen hsel habsent]
    exact raise_eq_of_plain s (by decide) (by decide)
  · rw [reconData_of_singular hlen hsel hpresent hnone]
    exact raise_eq_of_plain s (by decide) (by decide)
  · have hrows := length_rebuiltData hx
    rw [reconData_of_inverse hlen hsel hpresent hx, finishRecon_ok (writeRows_sameButSlots _ _ _)]
    refine ⟨_, rfl, rfl, writeRows_slots_length _ _ _, fun c hc => ?_, fun j hj => slotRead_writeRows_parity hrows hj⟩
    refine (slotRead_writeRows_data hs hrows hc).trans (congrArg Slot.present ?_)
    exact matRow_rebuiltData hs hsel.1 (fun i hi => hlen ▸ lt_length_of_isSelection hsel i hi) hx hc

/-- Settles O55: each case of the split, with the calls' ends read back from their answers. -/
theorem reconDiskCaseSplit : Obligations.ReconDiskCaseSplit := by
  refine ⟨(encode_of_payload_nil rfl).trans (congrArg (· :: _) headerWord_reconDisk), fun s hs => ?_⟩
  rw [exec_reconDisk hs.valid, exec_reconData hs.valid, exec_reconCorruption hs.valid]
  refine ⟨fun hfew => ?_, fun hall => ?_, fun hdata hparity => ?_, fun henough habsent => ⟨fun h => ?_, ?_⟩⟩
  · rw [reconDisk_of_few hfew]
    exact raise_insufficientShards s
  · rw [reconDisk_of_all_present hall, finishRecon_ok (SameButSlots.rfl' s)]
    exact ⟨_, rfl, rfl⟩
  · rw [reconDisk_of_parity_absent hdata hparity]
  · have hsingular := finishRecon_answered_singular (fun _ => reconData_sameButSlots) h rfl
    rw [reconDisk_of_data_absent henough habsent, hsingular]
    exact raise_eq_of_plain s (by decide) (by decide)
  · intro u v hu hresp hv hresp'
    obtain ⟨w, hw, hsame, rfl⟩ :=
      finishRecon_answered_ok (fun _ => reconData_sameButSlots) (reconData_ne_error_ok _ s) hu hresp
    rw [exec_reconCorruption_withBookkeeping hsame hs.valid] at hv
    obtain ⟨v', hv', _, rfl⟩ :=
      finishRecon_answered_ok (fun _ => reconCorruption_sameButSlots) (reconCorruption_ne_error_ok _) hv hresp'
    rw [reconCorruption_withBookkeeping] at hv'
    cases hx : w.reconCorruption with
    | error st => rw [hx] at hv'; cases hv'
    | ok x =>
      rw [hx] at hv'
      cases hv'
      have hrun : s.reconDisk = .ok x := by
        rw [reconDisk_of_data_absent henough habsent, hw]
        exact hx
      have hsame' := reconDisk_sameButSlots hrun
      rw [hrun, finishRecon_ok hsame', ← withBookkeeping_eq hsame']
      exact ⟨_, rfl, rfl, rfl⟩

/-- Settles O57: an illegal frame has another status, and no command answers this one. -/
theorem invalidReconstructionStateIsNeverAnswered : Obligations.InvalidReconstructionStateIsNeverAnswered := by
  intro s t ws rest hport h hresp
  have hlast : t.responses.getLast? = some [0x0B] := by simp [hresp]
  cases hd : decode ws with
  | error e =>
    rw [step_illegal hport hd] at h
    exact neverInvalid_raise (by decide) t h hlast
  | ok i =>
    rw [step_command hport hd] at h
    exact exec_neverInvalid i _ t h hlast

/-- Settles O15: the nine commands check CFG.VALID before anything else. -/
theorem unconfiguredEngineCommandIsRefused : Obligations.UnconfiguredEngineCommandIsRefused := by
  intro i s hi hv
  have hrefused (body : Result) : requireConfigured s body = .next (answered s [0x01]) :=
    (requireConfigured_of_invalid body hv).trans (raise_eq_of_plain s (by decide) (by decide))
  cases i with
  | encode bufs => exact hrefused _
  | dropShard index => exact hrefused _
  | bitFlip index bitpos => exact hrefused _
  | detect => exact hrefused _
  | verify => exact hrefused _
  | reconCorruption => exact hrefused _
  | reconData mask => exact hrefused _
  | reconDisk => exact hrefused _
  | readShard index => exact hrefused _
  | _ => exact hi.elim

/-- Settles O43: the one check fails, or the whole configuration is written. -/
theorem raidConfigWritesTheConfiguration : Obligations.RaidConfigWritesTheConfiguration := by
  intro s k m cap
  refine ⟨(encode_of_payload_nil rfl).trans (congrArg (· :: _) headerWord_raidConfig), fun hbad => ?_,
    fun hk hm ht hcap hmax => ?_⟩
  · exact (if_pos hbad).trans (raise_eq_of_plain s (by decide) (by decide))
  · exact (if_neg (by omega)).trans (complete_answered [] [] (s.configure k.toNat m.toNat cap.toNat))

/-- Settles O49: a slot is present or Absent. -/
theorem detectReportsPresence : Obligations.DetectReportsPresence := by
  refine ⟨(encode_of_payload_nil rfl).trans (congrArg (· :: _) headerWord_detect), fun s hs => ?_⟩
  have hbytes : s.presence.map boolByte =
      (List.range (s.cfgK + s.cfgM)).map fun i => if s.slotRead i = .absent then 0x00 else 0x01 := by
    rw [State.presence, List.map_map]
    refine List.map_congr_left fun i _ => ?_
    simp only [Function.comp_apply, boolByte, ← slotRead_ne_absent_iff]
    exact ite_not _ _ _
  rw [← hbytes]
  exact (requireConfigured_of_valid _ hs.valid).trans (complete_answered _ _ s)

/-- Settles O50: the index check, and the two kinds of slot. -/
theorem readShardReturnsTheSlot : Obligations.ReadShardReturnsTheSlot := by
  intro s index hs
  refine ⟨(encode_of_payload_nil rfl).trans (congrArg (· :: _) headerWord_readShard), fun hi => ?_, fun hi =>
    ⟨fun habsent => ?_, fun buf hbuf => ⟨?_, ?_⟩⟩⟩
  · exact (requireConfigured_of_valid _ hs.valid).trans
      ((if_pos hi).trans (raise_eq_of_plain s (by decide) (by decide)))
  · refine (requireConfigured_of_valid _ hs.valid).trans ((if_neg (Nat.not_le.mpr hi)).trans ?_)
    rw [habsent]
    exact complete_answered _ _ s
  · rw [← buf_of_slotRead hbuf]
    exact hs.length_buf (by simp [hbuf])
  · refine (requireConfigured_of_valid _ hs.valid).trans ((if_neg (Nat.not_le.mpr hi)).trans ?_)
    rw [hbuf]
    exact complete_answered _ _ s

end Sys2Proof.Proofs
end

section
/-! PROOFS, family 60_exceptions. The step of a frame ends in one of the two ways of `EndsWell`; what it answers, and what
a failing one leaves unchanged, follow from that. No check and no result reads ENGINE_STATE, the port or the earlier
responses (R264), so a command run in two states that differ in these alone passes the same checks and ends alike. -/

namespace Sys2Proof.Machine

open Sys2Proof.Claims

variable {s : State}

/-! How a frame's step ends. -/

/-- The step at a frame raises IllegalCommand or is a command's. -/
theorem step_frame_endsWell {ws : Frame} {rest : List HostEvent} (h : s.port = .frame ws :: rest) :
    EndsWell { s with port := rest } (step s) := by
  cases hd : decode ws with
  | error e => exact .inl ⟨.illegalCommand, step_illegal h hd, by decide⟩
  | ok i => rw [step_command h hd]; exact exec_cases i _

theorem EndsWell.exists_next {r : Result} (h : EndsWell s r) : ∃ t, r = .next t ∧ t.params = s.params := by
  rcases h with ⟨st, rfl, _⟩ | ⟨words, payload, t, rfl, _, hparams, _⟩
  · exact ⟨_, rfl, rfl⟩
  · exact ⟨_, rfl, hparams⟩

/-! Two runs. -/

/-- `r` and `r'` answer the same response in `s` and in `s'` and leave the same architectural state. -/
def SameAnswer (s s' : State) (r r' : Result) : Prop :=
  ∃ t t' f, r = .next t ∧ r' = .next t' ∧ t.arch = t'.arch ∧ t.responses = s.responses ++ [f] ∧
    t'.responses = s'.responses ++ [f]

section
variable {s' t t' : State} {r r' : Result} {st : Status} {words : List Word} {payload : List Byte}

theorem AnswersAlike.sameAnswer (harch : s.arch = s'.arch) (h : AnswersAlike s s' r r') : SameAnswer s s' r r' := by
  obtain ⟨f, rfl, rfl⟩ := h
  exact ⟨_, _, f, rfl, rfl, harch, rfl, rfl⟩

theorem sameAnswer_raise (harch : s.arch = s'.arch) : SameAnswer s s' (raise st s) (raise st s') :=
  ⟨_, _, _, rfl, rfl, harch, rfl, rfl⟩

theorem sameAnswer_complete (harch : t.arch = t'.arch) (ht : t.responses = s.responses)
    (ht' : t'.responses = s'.responses) : SameAnswer s s' (complete words payload t) (complete words payload t') :=
  ⟨_, _, _, rfl, rfl, harch, congrArg (· ++ _) ht, congrArg (· ++ _) ht'⟩

theorem sameAnswer_ite {r1 r2 r1' r2' : Result} (c : Prop) [Decidable c] (h1 : SameAnswer s s' r1 r1')
    (h2 : SameAnswer s s' r2 r2') : SameAnswer s s' (if c then r1 else r2) (if c then r1' else r2') := by
  split
  · exact h1
  · exact h2

end

/-- `s` with another ENGINE_STATE, port and earlier responses: the fields that R264 leaves out. -/
def State.withUnread (e : EngineState) (port : List HostEvent) (rs : List Frame) (s : State) : State :=
  { s with engineState := e, port := port, responses := rs }

theorem eq_withUnread {s' : State} (harch : s.arch = s'.arch) (hp : s.params = s'.params) :
    s' = s.withUnread s'.engineState s'.port s'.responses := by
  obtain ⟨params, valid, k, m, cap, len, em, slots, _, _, _⟩ := s
  obtain ⟨params', valid', k', m', cap', len', em', slots', _, _, _⟩ := s'
  cases harch
  cases hp
  rfl

section
variable {e : EngineState} {port : List HostEvent} {rs : List Frame}

@[simp] theorem withUnread_params (s : State) : (s.withUnread e port rs).params = s.params := rfl
@[simp] theorem withUnread_cfgK (s : State) : (s.withUnread e port rs).cfgK = s.cfgK := rfl
@[simp] theorem withUnread_em (s : State) : (s.withUnread e port rs).em = s.em := rfl

/-! What reads and writes the disk array commutes with a change of these fields. -/

theorem verifyParity_withUnread (s : State) : (s.withUnread e port rs).verifyParity = s.verifyParity := rfl

theorem slotRead_withUnread (i : Nat) (s : State) : (s.withUnread e port rs).slotRead i = s.slotRead i := rfl

theorem presence_withUnread (s : State) : (s.withUnread e port rs).presence = s.presence := rfl

theorem writeRows_withUnread (base : Nat) (rows : Mat) (s : State) :
    (s.withUnread e port rs).writeRows base rows = (s.writeRows base rows).withUnread e port rs :=
  List.foldl_hom _ fun _ _ => rfl

theorem repairParity_withUnread (valid : List Bool) (p : Mat) (s : State) :
    (s.withUnread e port rs).repairParity valid p = (s.repairParity valid p).withUnread e port rs :=
  List.foldl_hom _ fun _ _ => ite_eq_apply_ite _ rfl rfl

theorem reconCorruption_withUnread (s : State) :
    (s.withUnread e port rs).reconCorruption = s.reconCorruption.map (State.withUnread e port rs) := by
  simp only [State.reconCorruption, verifyParity_withUnread]
  rcases s.verifyParity with st | ⟨valid, p⟩
  · rfl
  · exact ite_eq_apply_ite _ rfl (congrArg Except.ok (repairParity_withUnread valid p s))

theorem reconData_withUnread (mask : List Bool) (s : State) :
    (s.withUnread e port rs).reconData mask = (s.reconData mask).map (State.withUnread e port rs) := by
  refine ite_eq_apply_ite _ rfl (ite_eq_apply_ite _ rfl (ite_eq_apply_ite _ rfl ?_))
  rw [withUnread_params, withUnread_cfgK, withUnread_em]
  cases ginvert s.params.gfPoly s.params.pivotMode s.cfgK ((selectShards s.cfgK mask).map (matRow s.em)) with
  | none => rfl
  | some x => exact congrArg Except.ok (writeRows_withUnread _ _ s)

theorem reconDisk_withUnread (s : State) :
    (s.withUnread e port rs).reconDisk = s.reconDisk.map (State.withUnread e port rs) := by
  refine ite_eq_apply_ite _ rfl (ite_eq_apply_ite _ ?_ (ite_eq_apply_ite _ (reconCorruption_withUnread s)
    (ite_eq_apply_ite _ rfl rfl)))
  rw [presence_withUnread, reconData_withUnread]
  cases s.reconData s.presence with
  | error st => rfl
  | ok u => exact reconCorruption_withUnread u

/-! The shared parts of a command, run in the two states. -/

theorem sameAnswer_check {c : Prop} [Decidable c] {st : Status} {r r' : Result}
    (h : SameAnswer s (s.withUnread e port rs) r r') :
    SameAnswer s (s.withUnread e port rs) (if c then raise st s else r)
      (if c then raise st (s.withUnread e port rs) else r') :=
  sameAnswer_ite _ (sameAnswer_raise rfl) h

theorem sameAnswer_requireConfigured {r r' : Result} (h : SameAnswer s (s.withUnread e port rs) r r') :
    SameAnswer s (s.withUnread e port rs) (requireConfigured s r)
      (requireConfigured (s.withUnread e port rs) r') :=
  sameAnswer_ite _ h (sameAnswer_raise rfl)

theorem sameAnswer_recon {r r' : Except Status State} (hok : ∀ {u}, r = .ok u → SameButSlots s u)
    (h : r' = r.map (State.withUnread e port rs)) :
    SameAnswer s (s.withUnread e port rs) (requireConfigured s (finishRecon r s))
      (requireConfigured (s.withUnread e port rs) (finishRecon r' (s.withUnread e port rs))) := by
  subst h
  refine sameAnswer_requireConfigured ?_
  cases r with
  | error st => exact sameAnswer_raise rfl
  | ok u =>
    obtain ⟨slots, rfl⟩ := (hok rfl).exists_slots
    exact sameAnswer_complete rfl rfl rfl

theorem exec_withUnread_sameAnswer (i : Instr) (s : State) :
    SameAnswer s (s.withUnread e port rs) (exec i s) (exec i (s.withUnread e port rs)) := by
  cases i with
  | raidConfig k m cap => exact sameAnswer_check (sameAnswer_complete rfl rfl rfl)
  | encode bufs =>
    refine sameAnswer_requireConfigured (sameAnswer_check (sameAnswer_check (sameAnswer_check ?_)))
    rw [encodeShards_eq, encodeShards_eq, writeRows_withUnread]
    exact sameAnswer_complete rfl rfl rfl
  | dropShard index => exact sameAnswer_requireConfigured (sameAnswer_check (sameAnswer_complete rfl rfl rfl))
  | bitFlip index bitpos =>
    exact sameAnswer_requireConfigured (sameAnswer_check (sameAnswer_check (sameAnswer_check
      (sameAnswer_complete rfl rfl rfl))))
  | detect => exact sameAnswer_requireConfigured (sameAnswer_complete rfl rfl rfl)
  | verify =>
    refine sameAnswer_requireConfigured ?_
    rw [verifyParity_withUnread]
    cases s.verifyParity with
    | error st => exact sameAnswer_raise rfl
    | ok result => exact sameAnswer_complete rfl rfl rfl
  | reconCorruption => exact sameAnswer_recon reconCorruption_sameButSlots (reconCorruption_withUnread s)
  | reconData mask => exact sameAnswer_recon reconData_sameButSlots (reconData_withUnread mask s)
  | reconDisk => exact sameAnswer_recon reconDisk_sameButSlots (reconDisk_withUnread s)
  | readShard index =>
    refine sameAnswer_requireConfigured (sameAnswer_check ?_)
    rw [slotRead_withUnread]
    cases s.slotRead index.toNat with
    | absent => exact sameAnswer_complete rfl rfl rfl
    | present buf => exact sameAnswer_complete rfl rfl rfl
  | _ =>
    refine AnswersAlike.sameAnswer rfl (exec_answersAlike ?_ rfl)
    trivial

end

/-- Every command ends alike in two states of the same architectural state and parameters (R264). -/
theorem exec_sameAnswer (i : Instr) {s' : State} (harch : s.arch = s'.arch) (hp : s.params = s'.params) :
    SameAnswer s s' (exec i s) (exec i s') := by
  rw [eq_withUnread harch hp]
  exact exec_withUnread_sameAnswer i s

end Sys2Proof.Machine

namespace Sys2Proof.Proofs

open Sys2Proof.Machine Sys2Proof.Claims

/-- Settles O18: both steps refuse the frame, or both run the command it decodes to. -/
theorem outcomeDependsOnFrameAndArchitecturalStateOnly :
    Obligations.OutcomeDependsOnFrameAndArchitecturalStateOnly := by
  intro s s' ws rest rest' hport hport' harch hp
  cases hd : decode ws with
  | error e =>
    rw [step_illegal hport hd, step_illegal hport' hd]
    exact sameAnswer_raise (s := { s with port := rest }) (s' := { s' with port := rest' }) harch
  | ok i =>
    rw [step_command hport hd, step_command hport' hd]
    exact exec_sameAnswer (s := { s with port := rest }) (s' := { s' with port := rest' }) i harch hp

/-- Settles O10: an idle step and a reset have their next state, and every frame ends well. -/
theorem everyStepAnswersANextStateWithTheSameParameters :
    Obligations.EveryStepAnswersANextStateWithTheSameParameters := by
  intro s
  match hport : s.port with
  | [] => exact ⟨s, step_idle hport, rfl⟩
  | .reset :: rest => exact ⟨_, step_reset hport, rfl⟩
  | .cutFrame ws :: rest => exact ⟨_, step_cutFrame hport, rfl⟩
  | .frame ws :: rest => exact (step_frame_endsWell hport).exists_next

/-- Settles O11: an error answers its status word alone, and a command that ends OK the status word 0x00 first. -/
theorem everyFrameGetsExactlyOneResponse : Obligations.EveryFrameGetsExactlyOneResponse := by
  intro s ws rest hport
  rcases step_frame_endsWell hport with ⟨st, hstep, _⟩ | ⟨words, payload, t, hstep, htport, _, hresp⟩
  · exact ⟨_, statusWord st, [], hstep, rfl, rfl, statusWord_le st, fun _ => rfl⟩
  · exact ⟨_, statusWord .ok, words ++ pack payload, hstep, congrArg (· ++ _) hresp, htport, statusWord_le .ok,
      absurd statusWord_ok⟩

/-- Settles O12: a response with a status other than OK is an error's, which writes no architectural state. -/
theorem failingCommandLeavesTheArchitecturalState : Obligations.FailingCommandLeavesTheArchitecturalState := by
  intro s t ws rest status words hport h hresp hstatus
  rcases step_frame_endsWell hport with ⟨st, hstep, _⟩ | ⟨words', payload, u, hstep, _, _, hu⟩ <;> rw [hstep] at h
  · exact raise_arch (s := { s with port := rest }) st h
  · cases h
    obtain ⟨rfl, _⟩ : 0x00 = status ∧ words' ++ pack payload = words := by simpa [hu, okResponse] using hresp
    exact absurd rfl hstatus

/-- Settles O9: with nothing at the port the step is the idle one. -/
theorem idleStepChangesNothing : Obligations.IdleStepChangesNothing :=
  fun _ hport => step_idle hport

end Sys2Proof.Proofs
end

section
/-! PROOFS, family 70_reset_and_hazards. A successful RAID_CONFIG leaves a configured block whose slots are all Absent;
what the engine commands answer there is the all-absent case of what they answer on a configured block. -/

namespace Sys2Proof.Machine

open Sys2Proof.Claims

variable {s t : State}

theorem configured_answered (hs : s.Configured) (r : Frame) : (answered s r).Configured := { hs with }

/-- RAID_CONFIG that ends OK leaves the written configuration, and the block configured (R190). -/
theorem raidConfig_ok {k m cap : Word} (h : exec (.raidConfig k m cap) s = .next t)
    (hresp : t.responses = s.responses ++ [[0x00]]) :
    t.Configured ∧ t = answered (s.configure k.toNat m.toNat cap.toNat) [0x00] := by
  obtain ⟨_, hbad, hgood⟩ := Proofs.raidConfigWritesTheConfiguration s k m cap
  by_cases hargs : 1 ≤ k.toNat ∧ 1 ≤ m.toNat ∧ k.toNat + m.toNat ≤ 256 ∧ 1 ≤ cap.toNat ∧ cap.toNat ≤ s.params.maxLen
  · obtain ⟨hk, hm, ht, hcap, hmax⟩ := hargs
    cases h.symm.trans (hgood hk hm ht hcap hmax)
    have hconf := configured_configure (s := s) hk hm ht hcap hmax cap.isLt
    exact ⟨configured_answered hconf _, rfl⟩
  · cases h.symm.trans (hbad (by omega))
    exact absurd (List.append_cancel_left hresp) (by decide)

section
variable (hs : s.Configured) (hslots : s.slots = List.replicate s.total .absent)

include hslots in
theorem slotRead_of_slots_absent (i : Nat) : s.slotRead i = .absent := by
  rw [State.slotRead, hslots, List.getD_eq_getElem?_getD, List.getElem?_getD_replicate_default_eq]

include hslots in
theorem presentCount_of_slots_absent (base n : Nat) : presentCount s base n = 0 :=
  (presentCount_eq_zero_iff s base n).mpr fun _ _ => slotRead_of_slots_absent hslots _

include hs hslots

theorem exec_detect_of_slots_absent :
    exec .detect s = .next (answered s (0x00 :: BitVec.ofNat 32 s.total :: pack (List.replicate s.total 0x00))) := by
  rw [Proofs.detectReportsPresence.2 s hs]
  simp [slotRead_of_slots_absent hslots, State.total]

theorem exists_data_absent : ∃ c < s.cfgK, s.slotRead c = .absent :=
  ⟨0, hs.kPos, slotRead_of_slots_absent hslots 0⟩

/-- Fewer than K marks are too few; K marks or more select an absent slot first. -/
theorem exec_reconData_of_slots_absent {mask : List Bool} (hlen : mask.length = s.total) :
    exec (.reconData mask) s =
      .next (if mask.count true < s.cfgK then gaveUp s 0x0A else answered s [0x08]) := by
  obtain ⟨_, _, hchecks⟩ := Proofs.reconDataChecksInOrderAndWritesTheDataSlots s mask hs
  obtain ⟨hfew, hselected⟩ := hchecks hlen
  split
  · next hcount => exact hfew hcount
  · next hcount =>
    have hsel := isSelection_selectShards (Nat.le_of_not_lt hcount)
    obtain ⟨i, hi⟩ := List.exists_mem_of_length_pos (hs.kPos.trans_eq hsel.1.symm)
    exact (hselected _ hsel).1 ⟨i, hi, slotRead_of_slots_absent hslots i⟩

theorem exec_reconDisk_of_slots_absent : exec .reconDisk s = .next (gaveUp s 0x0A) := by
  refine (Proofs.reconDiskCaseSplit.2 s hs).1 ?_
  rw [presentCount_of_slots_absent hslots, presentCount_of_slots_absent hslots]
  exact hs.kPos

/-- Dropping an absent slot succeeds and writes what is there. -/
theorem exec_dropShard_of_slots_absent {index : Word} (hi : index.toNat < s.total) :
    ∃ u, exec (.dropShard index) s = .next u ∧ u.responses = s.responses ++ [[0x00]] ∧ u.arch = s.arch := by
  refine ⟨_, exec_dropShard_ok hs.valid hi, rfl, ?_⟩
  have hset : s.slots.set index.toNat .absent = s.slots := by rw [hslots, List.set_replicate_self]
  rw [hset]
  rfl

end

end Sys2Proof.Machine

namespace Sys2Proof.Proofs

open Sys2Proof.Machine Sys2Proof.Claims

/-- Settles O44: each command's answer on a configured block whose slots are all Absent. -/
theorem commandsRightAfterRaidConfig : Obligations.CommandsRightAfterRaidConfig := by
  intro s t k m cap index bitpos h hresp hi
  obtain ⟨hconf, ht⟩ := raidConfig_ok h hresp
  have hk : t.cfgK = k.toNat := by rw [ht]; rfl
  have htotal : t.total = k.toNat + m.toNat := by rw [ht]; rfl
  have hslots : t.slots = List.replicate t.total .absent := by rw [ht]; rfl
  have hdata := exists_data_absent hconf hslots
  have habsent := slotRead_of_slots_absent hslots index.toNat
  rw [← htotal] at hi
  rw [← htotal, ← hk]
  refine ⟨exec_detect_of_slots_absent hconf hslots, ?readShard, ?bitFlip, ?verify, ?reconCorruption,
    exec_reconDisk_of_slots_absent hconf hslots, fun mask => exec_reconData_of_slots_absent hconf hslots,
    exec_dropShard_of_slots_absent hconf hslots hi⟩
  case readShard =>
    obtain ⟨_, _, hread⟩ := readShardReturnsTheSlot t index hconf
    exact (hread hi).1 habsent
  case bitFlip =>
    obtain ⟨_, _, hflip, _⟩ := bitFlipInvertsExactlyOneBit t index bitpos hconf
    exact hflip hi habsent
  case verify => exact (verifyRecomputesTheParity.2 t hconf).1 hdata
  case reconCorruption => exact (reconCorruptionRepairsInvalidParity.2 t hconf).1 hdata

end Sys2Proof.Proofs
end
